-- ==== Sys2Proof/Word.lean ====
section
/-! DEFINITION. The machine's data types: the 32-bit word (10_state.md R20), the register index, and an
instruction text (00_scope.md R7, level T) as its list of characters. -/

namespace Sys2Proof

/-- A register's or memory cell's contents: a 32-bit two's-complement pattern, read as signed with `toInt`
(10_state.md R20, R28) and as unsigned with `toNat` (`u32` of 00_scope.md R9). -/
abbrev Word := BitVec 32

/-- A register index, 0 to 31 (10_state.md R20). -/
abbrev Reg := Fin 32

/-- An instruction text, or a token of one: a character string (00_scope.md R7, 10_state.md R26). -/
abbrev Text := List Char

end Sys2Proof
end

