-- ==== Sys2Proof/Config.lean ====
section
/-! DEFINITION. What an implementation fixes (the parameters of 00_scope.md section 4) and the values the
spec leaves open, which are constants without a body: nothing can be proved of their values. -/

namespace Sys2Proof

/-- How far PROG_MAX lies above 1, OPEN. Log entry 2. -/
opaque Config.progMaxAboveOne : Nat

/-- PROG_MAX, OPEN (00_scope.md section 4, 10_state.md R26): any natural number but 0, since a machine of
PROG_MAX = 0 can hold no instruction. Log entry 2, DESIGN CHOICE. -/
def Config.progMax : Nat := Config.progMaxAboveOne + 1

/-- The texts STARTER_PROGRAM is cut from, OPEN (10_state.md R27, 91_not_in_source.md N8). Log entry 1. -/
opaque Config.starterTexts : List Text

/-- STARTER_PROGRAM: any list of instruction texts whose length is at most PROG_MAX (10_state.md R26, R27). -/
def Config.starterProgram : List Text := Config.starterTexts.take Config.progMax

/-- Whether a character outside ASCII is white space: the spec says only "white space" (40_decoder.md R112).
Log entry 3. -/
opaque Config.wideSpace : Char → Bool

/-- The lower-case form of a character outside ASCII (40_decoder.md R112). Log entry 3. -/
opaque Config.wideLower : Char → Text

/-- The text `executeOne` would record if it were called outside program bounds, which is never done
(42_control_and_step.md R177). Log entry 6. -/
opaque Config.absentText : Text

/-- IMM_RANGE, lower end (40_decoder.md R118). -/
def Config.immMin : Int := -2147483648

/-- IMM_RANGE, upper end (40_decoder.md R118). -/
def Config.immMax : Int := 2147483647

/-- DEFAULT_MEM_OFFSET (45_load_store.md R243). -/
def Config.defaultMemOffset : Int := 0

/-- DEFAULT_BRANCH_OFFSET (46_branch.md R261). -/
def Config.defaultBranchOffset : Int := 1

/-- MEM_WORDS (10_state.md R28). -/
def Config.memWords : Nat := 256

/-- RUN_TICK in milliseconds: pacing only, read by nothing (70_reset_and_hazards.md R345). -/
def Config.runTickMs : Nat := 500

end Sys2Proof
end

