-- ==== Sys2Proof/Syntax.lean ====
section
/-! DEFINITION. Instructions at level R (00_scope.md R7): operand values, the classes, the 27 mnemonics of
MNEMONIC_TABLE (30_encoding.md R86), the instruction (a table mnemonic with its operand sequence) and the
Decoder's record (30_encoding.md R82). A mnemonic outside the table has no instruction: it is a record of
class `none` and the machine falls through (47_unknown_and_system.md R270). -/

namespace Sys2Proof

/-- One operand value of a record: an integer or the marker `bad` (30_encoding.md R82). -/
inductive Operand where
  | int (v : Int)
  | bad
  deriving DecidableEq, Repr

/-- The instruction class of an opcode (30_encoding.md R85): R, I, L, S, B or `none` (here `noClass`). -/
inductive Cls where
  | regReg
  | regImm
  | load
  | store
  | branch
  | noClass
  deriving DecidableEq, Repr

/-- The keys of MNEMONIC_TABLE (30_encoding.md R86). -/
inductive Mnemonic where
  | add
  | sub
  | sll
  | slt
  | sltu
  | xor
  | srl
  | sra
  | or
  | and
  | addi
  | slti
  | sltiu
  | xori
  | ori
  | andi
  | slli
  | srli
  | srai
  | lw
  | sw
  | beq
  | bne
  | blt
  | bge
  | bltu
  | bgeu
  deriving DecidableEq, Repr

/-- An instruction of the table with its operand sequence, which the Decoder does not check (40_decoder.md
R110): a position may be absent, `bad` or out of range. The shape in each constructor's docstring is the role
of positions 0, 1, 2 (30_encoding.md R83). -/
inductive Instr where
  /-- `add rd, rs1, rs2`, R200 (basis N). -/
  | add (ops : List Operand)
  /-- `sub rd, rs1, rs2`, R201 (basis N). -/
  | sub (ops : List Operand)
  /-- `sll rd, rs1, rs2`, R202 (basis S). -/
  | sll (ops : List Operand)
  /-- `slt rd, rs1, rs2`, R203 (basis S). -/
  | slt (ops : List Operand)
  /-- `sltu rd, rs1, rs2`, R204 (basis N). -/
  | sltu (ops : List Operand)
  /-- `xor rd, rs1, rs2`, R205 (basis S). -/
  | xor (ops : List Operand)
  /-- `srl rd, rs1, rs2`, R206 (basis D). -/
  | srl (ops : List Operand)
  /-- `sra rd, rs1, rs2`, R207 (basis D). -/
  | sra (ops : List Operand)
  /-- `or rd, rs1, rs2`, R208 (basis S). -/
  | or (ops : List Operand)
  /-- `and rd, rs1, rs2`, R209 (basis S). -/
  | and (ops : List Operand)
  /-- `addi rd, rs1, imm`, R220 (basis N). -/
  | addi (ops : List Operand)
  /-- `slti rd, rs1, imm`, R221 (basis S). -/
  | slti (ops : List Operand)
  /-- `sltiu rd, rs1, imm`, R222 (basis S). -/
  | sltiu (ops : List Operand)
  /-- `xori rd, rs1, imm`, R223 (basis S). -/
  | xori (ops : List Operand)
  /-- `ori rd, rs1, imm`, R224 (basis S). -/
  | ori (ops : List Operand)
  /-- `andi rd, rs1, imm`, R225 (basis S). -/
  | andi (ops : List Operand)
  /-- `slli rd, rs1, imm`, R226 (basis S). -/
  | slli (ops : List Operand)
  /-- `srli rd, rs1, imm`, R227 (basis D). -/
  | srli (ops : List Operand)
  /-- `srai rd, rs1, imm`, R228 (basis D). -/
  | srai (ops : List Operand)
  /-- `lw rd, rs1, offset`, R240 (basis N). -/
  | lw (ops : List Operand)
  /-- `sw rs2, rs1, offset`, R241 (basis N). -/
  | sw (ops : List Operand)
  /-- `beq rs1, rs2, offset`, R253 (basis N). -/
  | beq (ops : List Operand)
  /-- `bne rs1, rs2, offset`, R254 (basis D). -/
  | bne (ops : List Operand)
  /-- `blt rs1, rs2, offset`, R255 (basis D). -/
  | blt (ops : List Operand)
  /-- `bge rs1, rs2, offset`, R256 (basis D). -/
  | bge (ops : List Operand)
  /-- `bltu rs1, rs2, offset`, R257 (basis N). -/
  | bltu (ops : List Operand)
  /-- `bgeu rs1, rs2, offset`, R258 (basis N). -/
  | bgeu (ops : List Operand)
  deriving DecidableEq, Repr

/-- The instruction of a table mnemonic with its operands. -/
def Mnemonic.instr : Mnemonic → List Operand → Instr
  | .add  , ops => .add ops
  | .sub  , ops => .sub ops
  | .sll  , ops => .sll ops
  | .slt  , ops => .slt ops
  | .sltu , ops => .sltu ops
  | .xor  , ops => .xor ops
  | .srl  , ops => .srl ops
  | .sra  , ops => .sra ops
  | .or   , ops => .or ops
  | .and  , ops => .and ops
  | .addi , ops => .addi ops
  | .slti , ops => .slti ops
  | .sltiu, ops => .sltiu ops
  | .xori , ops => .xori ops
  | .ori  , ops => .ori ops
  | .andi , ops => .andi ops
  | .slli , ops => .slli ops
  | .srli , ops => .srli ops
  | .srai , ops => .srai ops
  | .lw   , ops => .lw ops
  | .sw   , ops => .sw ops
  | .beq  , ops => .beq ops
  | .bne  , ops => .bne ops
  | .blt  , ops => .blt ops
  | .bge  , ops => .bge ops
  | .bltu , ops => .bltu ops
  | .bgeu , ops => .bgeu ops

/-- An instruction's mnemonic. -/
def Instr.mnemonic : Instr → Mnemonic
  | .add _ => .add
  | .sub _ => .sub
  | .sll _ => .sll
  | .slt _ => .slt
  | .sltu _ => .sltu
  | .xor _ => .xor
  | .srl _ => .srl
  | .sra _ => .sra
  | .or _ => .or
  | .and _ => .and
  | .addi _ => .addi
  | .slti _ => .slti
  | .sltiu _ => .sltiu
  | .xori _ => .xori
  | .ori _ => .ori
  | .andi _ => .andi
  | .slli _ => .slli
  | .srli _ => .srli
  | .srai _ => .srai
  | .lw _ => .lw
  | .sw _ => .sw
  | .beq _ => .beq
  | .bne _ => .bne
  | .blt _ => .blt
  | .bge _ => .bge
  | .bltu _ => .bltu
  | .bgeu _ => .bgeu

/-- An instruction's operand sequence. -/
def Instr.operands : Instr → List Operand
  | .add ops => ops
  | .sub ops => ops
  | .sll ops => ops
  | .slt ops => ops
  | .sltu ops => ops
  | .xor ops => ops
  | .srl ops => ops
  | .sra ops => ops
  | .or ops => ops
  | .and ops => ops
  | .addi ops => ops
  | .slti ops => ops
  | .sltiu ops => ops
  | .xori ops => ops
  | .ori ops => ops
  | .andi ops => ops
  | .slli ops => ops
  | .srli ops => ops
  | .srai ops => ops
  | .lw ops => ops
  | .sw ops => ops
  | .beq ops => ops
  | .bne ops => ops
  | .blt ops => ops
  | .bge ops => ops
  | .bltu ops => ops
  | .bgeu ops => ops

/-- The opcode, funct3 and funct7 fields the table supplies, with the mnemonic's spelling
(30_encoding.md R86). -/
structure TableRow where
  name   : Text
  opcode : BitVec 7
  funct3 : BitVec 3
  funct7 : BitVec 7
  deriving DecidableEq, Repr

/-- The Decoder's output (30_encoding.md R82). -/
structure Record where
  mnemonic : Text
  operands : List Operand
  opcode   : BitVec 7
  funct3   : BitVec 3
  funct7   : BitVec 7
  deriving DecidableEq, Repr

/-- The 32-bit word formats of 30_encoding.md R93. -/
inductive Format where
  | r
  | i
  | iShift
  | s
  | b
  deriving DecidableEq, Repr

/-- What a 32-bit word stands for (30_encoding.md R96). -/
inductive WordMeaning where
  /-- a row matches -/
  | instr (i : Instr)
  /-- no row matches: an unknown mnemonic, which falls through -/
  | unknown
  /-- a B row matches and the displacement is no multiple of 4: no instruction of this machine -/
  | noInstruction
  deriving DecidableEq, Repr

end Sys2Proof
end

