-- ==== Sys2Proof/WellFormed.lean ====
section
/-! DEFINITION. Which instructions have usable operands: at every position the class names, a register index,
or an immediate in IMM_RANGE, or absent where the class has a default (30_encoding.md R83, 00_scope.md R13). -/

namespace Sys2Proof

/-- An integer in [0, 31] (00_scope.md R13, `reg(k)`). -/
def Operand.isReg : Operand → Bool
  | .int v => decide (0 ≤ v) && decide (v ≤ 31)
  | .bad => false

/-- An integer in IMM_RANGE (00_scope.md R13, `imm(k)`; 40_decoder.md R118). -/
def Operand.isImm : Operand → Bool
  | .int v => decide (Config.immMin ≤ v) && decide (v ≤ Config.immMax)
  | .bad => false

/-- The operand positions a class names hold what the class needs (30_encoding.md R83). -/
def operandsFit (c : Cls) (ops : List Operand) : Bool :=
  match c with
  | .regReg => ops[0]?.any Operand.isReg && ops[1]?.any Operand.isReg && ops[2]?.any Operand.isReg
  | .regImm => ops[0]?.any Operand.isReg && ops[1]?.any Operand.isReg && ops[2]?.any Operand.isImm
  | .load | .store | .branch =>
    ops[0]?.any Operand.isReg && ops[1]?.any Operand.isReg && ops[2]?.all Operand.isImm
  | .noClass => true

/-- The class of an instruction, by constructor (30_encoding.md R86). -/
def Instr.cls : Instr → Cls
  | .add _ | .sub _ | .sll _ | .slt _ | .sltu _ | .xor _ | .srl _ | .sra _ | .or _ | .and _ => .regReg
  | .addi _ | .slti _ | .sltiu _ | .xori _ | .ori _ | .andi _ | .slli _ | .srli _ | .srai _ => .regImm
  | .lw _ => .load
  | .sw _ => .store
  | .beq _ | .bne _ | .blt _ | .bge _ | .bltu _ | .bgeu _ => .branch

/-- An instruction whose operands pass the checks its class makes (42_control_and_step.md R181). -/
def Instr.wellFormed (i : Instr) : Bool := operandsFit i.cls i.operands

end Sys2Proof
end

