-- ==== Sys2Proof/Decode.lean ====
section
/-! DEFINITION. The Decoder (40_decoder.md): text to record, and record to instruction; and, after it, the
texts that encode an instruction. Then the 32-bit word form (30_encoding.md R93 to R97), which is the spec's
own bookkeeping: reading a word and writing one. Everything is total. -/

namespace Sys2Proof

/-- MNEMONIC_TABLE (30_encoding.md R86). -/
def Mnemonic.row : Mnemonic → TableRow
  | .add   => ⟨['a', 'd', 'd'], 0x33, 0, 0x00⟩
  | .sub   => ⟨['s', 'u', 'b'], 0x33, 0, 0x20⟩
  | .sll   => ⟨['s', 'l', 'l'], 0x33, 1, 0x00⟩
  | .slt   => ⟨['s', 'l', 't'], 0x33, 2, 0x00⟩
  | .sltu  => ⟨['s', 'l', 't', 'u'], 0x33, 3, 0x00⟩
  | .xor   => ⟨['x', 'o', 'r'], 0x33, 4, 0x00⟩
  | .srl   => ⟨['s', 'r', 'l'], 0x33, 5, 0x00⟩
  | .sra   => ⟨['s', 'r', 'a'], 0x33, 5, 0x20⟩
  | .or    => ⟨['o', 'r'], 0x33, 6, 0x00⟩
  | .and   => ⟨['a', 'n', 'd'], 0x33, 7, 0x00⟩
  | .addi  => ⟨['a', 'd', 'd', 'i'], 0x13, 0, 0x00⟩
  | .slti  => ⟨['s', 'l', 't', 'i'], 0x13, 2, 0x00⟩
  | .sltiu => ⟨['s', 'l', 't', 'i', 'u'], 0x13, 3, 0x00⟩
  | .xori  => ⟨['x', 'o', 'r', 'i'], 0x13, 4, 0x00⟩
  | .ori   => ⟨['o', 'r', 'i'], 0x13, 6, 0x00⟩
  | .andi  => ⟨['a', 'n', 'd', 'i'], 0x13, 7, 0x00⟩
  | .slli  => ⟨['s', 'l', 'l', 'i'], 0x13, 1, 0x00⟩
  | .srli  => ⟨['s', 'r', 'l', 'i'], 0x13, 5, 0x00⟩
  | .srai  => ⟨['s', 'r', 'a', 'i'], 0x13, 5, 0x20⟩
  | .lw    => ⟨['l', 'w'], 0x03, 2, 0x00⟩
  | .sw    => ⟨['s', 'w'], 0x23, 2, 0x00⟩
  | .beq   => ⟨['b', 'e', 'q'], 0x63, 0, 0x00⟩
  | .bne   => ⟨['b', 'n', 'e'], 0x63, 1, 0x00⟩
  | .blt   => ⟨['b', 'l', 't'], 0x63, 4, 0x00⟩
  | .bge   => ⟨['b', 'g', 'e'], 0x63, 5, 0x00⟩
  | .bltu  => ⟨['b', 'l', 't', 'u'], 0x63, 6, 0x00⟩
  | .bgeu  => ⟨['b', 'g', 'e', 'u'], 0x63, 7, 0x00⟩

/-- The keys of the table, in the table's order. -/
def Mnemonic.all : List Mnemonic :=
  [.add, .sub, .sll, .slt, .sltu, .xor, .srl, .sra, .or, .and,
   .addi, .slti, .sltiu, .xori, .ori, .andi, .slli, .srli, .srai,
   .lw, .sw, .beq, .bne, .blt, .bge, .bltu, .bgeu]


/-- The class of an opcode (30_encoding.md R85). -/
def classOf (opcode : BitVec 7) : Cls :=
  if opcode = 0x33 then .regReg
  else if opcode = 0x13 then .regImm
  else if opcode = 0x03 then .load
  else if opcode = 0x23 then .store
  else if opcode = 0x63 then .branch
  else .noClass

/-- The class of a record (30_encoding.md R85). -/
def Record.cls (r : Record) : Cls := classOf r.opcode

/-- Table lookup: exact comparison with the 27 keys (40_decoder.md R119). -/
def lookupMnemonic (name : Text) : Option Mnemonic :=
  Mnemonic.all.find? (fun m => decide (m.row.name = name))

/-! ## Tokenizer -/

/-- White space (40_decoder.md R112): in ASCII the space and U+0009 to U+000D (log entry 4, DESIGN CHOICE);
elsewhere open (log entry 3). -/
def isSpace (c : Char) : Bool :=
  if c.toNat < 128 then c.toNat == 32 || (9 ≤ c.toNat && c.toNat ≤ 13) else Config.wideSpace c

/-- The lower-case form of a character (40_decoder.md R112); outside ASCII open (log entry 3). -/
def lowerChar (c : Char) : Text :=
  if c.toNat < 128 then
    (if 65 ≤ c.toNat && c.toNat ≤ 90 then [Char.ofNat (c.toNat + 32)] else [c])
  else Config.wideLower c

/-- Leading and trailing white space removed (40_decoder.md R112, s1). -/
def trimText (t : Text) : Text :=
  ((t.dropWhile isSpace).reverse.dropWhile isSpace).reverse

/-- Trimmed, lower-cased, commas deleted, in this order (40_decoder.md R112, s3). -/
def normalise (t : Text) : Text :=
  ((trimText t).flatMap lowerChar).filter (fun c => decide (c ≠ ','))

/-- The maximal runs of non-white-space characters, in order, where `cur` is the run being read. -/
def splitAux (cur : Text) : Text → List Text
  | [] => if cur.isEmpty then [] else [cur]
  | c :: cs =>
    if isSpace c then
      (if cur.isEmpty then splitAux [] cs else cur :: splitAux [] cs)
    else splitAux (cur ++ [c]) cs

/-- The tokens of a text (40_decoder.md R112). -/
def tokenize (t : Text) : List Text := splitAux [] (normalise t)

/-! ## Operand parser -/

/-- The value of a decimal digit. -/
def digitValue (c : Char) : Option Nat :=
  if 48 ≤ c.toNat && c.toNat ≤ 57 then some (c.toNat - 48) else none

/-- Decimal digits read on from the value `acc`; any other character gives nothing. -/
def digitsAux (acc : Nat) : Text → Option Nat
  | [] => some acc
  | c :: cs =>
    match digitValue c with
    | some d => digitsAux (acc * 10 + d) cs
    | none => none

/-- One or more decimal digits and nothing else (40_decoder.md R115). -/
def parseNat (t : Text) : Option Nat :=
  if t.isEmpty then none else digitsAux 0 t

/-- An optional sign and one or more decimal digits and nothing else (40_decoder.md R116). -/
def parseInt (t : Text) : Option Int :=
  match t with
  | [] => none
  | c :: cs =>
    if c = '-' then (parseNat cs).map (fun n => -(n : Int))
    else if c = '+' then (parseNat cs).map (fun n => (n : Int))
    else (parseNat t).map (fun n => (n : Int))

/-- An operand token on its own: a register token, an integer token, or `bad`
(40_decoder.md R114 to R117). -/
def parseOperand (t : Text) : Operand :=
  match t with
  | [] => .bad
  | c :: cs =>
    if c = 'x' then
      (match parseNat cs with
       | some n => .int n
       | none => .bad)
    else
      (match parseInt t with
       | some v => .int v
       | none => .bad)

/-- The token `[+-]?<digits>(x<digits>)`, nothing before or after: the register index and the integer
(40_decoder.md R120). -/
def parseParen (t : Text) : Option (Nat × Int) :=
  match t.dropWhile (fun c => decide (c ≠ '(')) with
  | o :: x :: body =>
    if o = '(' ∧ x = 'x' ∧ body.getLast? = some ')' then
      (match parseNat body.dropLast, parseInt (t.takeWhile (fun c => decide (c ≠ '('))) with
       | some n, some v => some (n, v)
       | _, _ => none)
    else none
  | _ => none

/-- The operand values one token gives; `paren` says whether the class is L or S (40_decoder.md R120). -/
def operandsOfToken (paren : Bool) (t : Text) : List Operand :=
  match paren, parseParen t with
  | true, some (n, v) => [.int n, .int v]
  | _, _ => [parseOperand t]

/-- Whether a class accepts the parenthesised operand (40_decoder.md R120). -/
def Cls.paren : Cls → Bool
  | .load | .store => true
  | _ => false

/-- The Decoder: `decode(text) -> Instruction`, a function of the text alone and total (40_decoder.md R110,
R113, R119). The empty text has the empty mnemonic. -/
def decode (t : Text) : Record :=
  let tokens := tokenize t
  let name := tokens.head?.getD []
  match lookupMnemonic name with
  | some m =>
    { mnemonic := name, operands := tokens.tail.flatMap (operandsOfToken (classOf m.row.opcode).paren),
      opcode := m.row.opcode, funct3 := m.row.funct3, funct7 := m.row.funct7 }
  | none =>
    { mnemonic := name, operands := tokens.tail.flatMap (operandsOfToken false),
      opcode := 0, funct3 := 0, funct7 := 0 }

/-- The instruction a record stands for; none for an unknown mnemonic (47_unknown_and_system.md R270). -/
def Record.instr (r : Record) : Option Instr :=
  (lookupMnemonic r.mnemonic).map (fun m => m.instr r.operands)

/-! ## A text for an instruction -/

/-- The digit of a value below 10. -/
def digitChar (n : Nat) : Char := Char.ofNat (48 + n)

/-- The decimal digits of `n`, as many as the fuel allows. -/
def showNatAux : Nat → Nat → Text
  | 0, _ => []
  | f + 1, n => if n < 10 then [digitChar n] else showNatAux f (n / 10) ++ [digitChar (n % 10)]

/-- A natural number in decimal. -/
def showNat (n : Nat) : Text := showNatAux (n.log2 + 1) n

/-- An integer in decimal, signed where negative. -/
def showInt (v : Int) : Text :=
  if v < 0 then '-' :: showNat v.natAbs else showNat v.natAbs

/-- A token for an operand value: `x<digits>` for an index in a register position, an integer elsewhere, and a
malformed token for `bad` (40_decoder.md R115 to R117). -/
def showOperand (isRegister : Bool) (o : Operand) : Text :=
  match o with
  | .int v => if isRegister && decide (0 ≤ v) then 'x' :: showNat v.natAbs else showInt v
  | .bad => ['?']

/-- Whether position `k` of a class holds a register (30_encoding.md R83). -/
def Cls.isRegisterAt (c : Cls) (k : Nat) : Bool :=
  match c, k with
  | .noClass, _ => false
  | _, 0 => true
  | _, 1 => true
  | .regReg, 2 => true
  | _, _ => false

/-- Operand tokens from position `k` on, each after a space, with a comma between neighbours
(30_encoding.md R81). -/
def showOperands (c : Cls) : Nat → List Operand → Text
  | _, [] => []
  | k, [o] => ' ' :: showOperand (c.isRegisterAt k) o
  | k, o :: o' :: os => ' ' :: (showOperand (c.isRegisterAt k) o ++ (',' :: showOperands c (k + 1) (o' :: os)))

/-- A text of the instruction in the format of 30_encoding.md R80 and R83, for example `add x3, x1, x2`. -/
def Instr.text (i : Instr) : Text :=
  i.mnemonic.row.name ++ showOperands i.cls 0 i.operands

/-! ## The 32-bit word form -/

/-- The word format of a mnemonic (30_encoding.md R93). -/
def Mnemonic.format (m : Mnemonic) : Format :=
  match m with
  | .slli | .srli | .srai => .iShift
  | _ =>
    match classOf m.row.opcode with
    | .regReg => .r
    | .store => .s
    | .branch => .b
    | _ => .i

/-- The bits a row fixes (30_encoding.md R97). -/
def Mnemonic.mask (m : Mnemonic) : Word :=
  match m.format with
  | .r | .iShift => 0xFE00707F
  | _ => 0x0000707F

/-- The value of the fixed bits: `funct7 << 25 | funct3 << 12 | opcode`, funct7 taken as 0 where the mask does
not cover it (30_encoding.md R97). -/
def Mnemonic.matchValue (m : Mnemonic) : Word :=
  let f7 : BitVec 7 := match m.format with
    | .r | .iShift => m.row.funct7
    | _ => 0
  (f7.setWidth 32 <<< 25) ||| (m.row.funct3.setWidth 32 <<< 12) ||| m.row.opcode.setWidth 32

/-- Whether a word has a row's fixed bits (30_encoding.md R96). -/
def Mnemonic.matchesWord (m : Mnemonic) (w : Word) : Bool := decide (w &&& m.mask = m.matchValue)

/-- The register index in the five bits from `lo` up (30_encoding.md R94). -/
def regField (w : Word) (lo : Nat) : Operand := .int (w.extractLsb' lo 5).toNat

/-- `sext_12(w[31:20])` (30_encoding.md R94). -/
def immI (w : Word) : Int := (w.extractLsb' 20 12).toInt

/-- `sext_12(w[31:25] ++ w[11:7])` (30_encoding.md R94). -/
def immS (w : Word) : Int := (w.extractLsb' 25 7 ++ w.extractLsb' 7 5).toInt

/-- The byte displacement `d = sext_13(w[31] ++ w[7] ++ w[30:25] ++ w[11:8] ++ 0b0)` (30_encoding.md R94). -/
def dispB (w : Word) : Int :=
  (w.extractLsb' 31 1 ++ w.extractLsb' 7 1 ++ w.extractLsb' 25 6 ++ w.extractLsb' 8 4 ++ (0 : BitVec 1)).toInt

/-- The three operand values of a word read in a format (30_encoding.md R94, in the order of R83). -/
def unpackOperands (f : Format) (w : Word) : List Operand :=
  match f with
  | .r => [regField w 7, regField w 15, regField w 20]
  | .i => [regField w 7, regField w 15, .int (immI w)]
  | .iShift => [regField w 7, regField w 15, .int (w.extractLsb' 20 5).toNat]
  | .s => [regField w 20, regField w 15, .int (immS w)]
  | .b => [regField w 15, regField w 20, .int (dispB w / 4)]

/-- Reading a word (30_encoding.md R96). -/
def decodeWord (w : Word) : WordMeaning :=
  match Mnemonic.all.find? (fun m => m.matchesWord w) with
  | none => .unknown
  | some m =>
    if m.format = .b ∧ dispB w % 4 ≠ 0 then .noInstruction
    else .instr (m.instr (unpackOperands m.format w))

/-- The value an absent third operand stands for (30_encoding.md R83). -/
def Cls.defaultThird : Cls → Option Int
  | .load | .store => some Config.defaultMemOffset
  | .branch => some Config.defaultBranchOffset
  | _ => none

/-- The three operand values of a well-formed instruction, an absent third at its default
(30_encoding.md R95). -/
def operandTriple (c : Cls) (ops : List Operand) : Option (Int × Int × Int) :=
  match ops with
  | [.int p, .int q] => c.defaultThird.map (fun d => (p, q, d))
  | .int p :: .int q :: .int r :: _ => some (p, q, r)
  | _ => none

/-- The third operand fits the format's field (30_encoding.md R95); a register always fits. -/
def thirdFits (f : Format) (v : Int) : Bool :=
  match f with
  | .r => true
  | .i | .s => decide (-2048 ≤ v) && decide (v ≤ 2047)
  | .iShift => decide (0 ≤ v) && decide (v ≤ 31)
  | .b => decide (-1024 ≤ v) && decide (v ≤ 1023)

/-- The fields of three operand values laid out in a format (30_encoding.md R93). The B format holds the byte
displacement, 4 times the offset (R94). -/
def packWord (m : Mnemonic) (p q r : Int) : Word :=
  let p5 := BitVec.ofInt 5 p
  let q5 := BitVec.ofInt 5 q
  let op := m.row.opcode
  let f3 := m.row.funct3
  let f7 := m.row.funct7
  match m.format with
  | .r => f7 ++ BitVec.ofInt 5 r ++ q5 ++ f3 ++ p5 ++ op
  | .i => BitVec.ofInt 12 r ++ q5 ++ f3 ++ p5 ++ op
  | .iShift => f7 ++ BitVec.ofInt 5 r ++ q5 ++ f3 ++ p5 ++ op
  | .s =>
    let v := BitVec.ofInt 12 r
    v.extractLsb' 5 7 ++ p5 ++ q5 ++ f3 ++ v.extractLsb' 0 5 ++ op
  | .b =>
    let d := BitVec.ofInt 13 (4 * r)
    d.extractLsb' 12 1 ++ d.extractLsb' 5 6 ++ q5 ++ p5 ++ f3 ++ d.extractLsb' 1 4 ++ d.extractLsb' 11 1 ++ op

/-- The word of an instruction, where it has one (30_encoding.md R95). -/
def encode (i : Instr) : Option Word :=
  match i.wellFormed, operandTriple i.cls i.operands with
  | true, some (p, q, r) =>
    if thirdFits i.mnemonic.format r then some (packWord i.mnemonic p q r) else none
  | _, _ => none

/-- The same instruction with exactly its three operand values, an absent third written out and further
operands dropped (30_encoding.md R95). -/
def Instr.canonical (i : Instr) : Instr :=
  match operandTriple i.cls i.operands with
  | some (p, q, r) => i.mnemonic.instr [.int p, .int q, .int r]
  | none => i

/-- The instruction of the opcode table's word whose bits are `w` (bit 0 the least significant), every bit from
`nbits` up being 0 (30_encoding.md R96). -/
def decodeTableWord (nbits w : Nat) : Option Instr :=
  match decodeWord (BitVec.ofNat 32 (w % 2 ^ nbits)) with
  | .instr i => some i
  | _ => none

/-- The instruction text a word stands for: the text of its instruction; for a word that matches no row a text
whose mnemonic is not in the table; none for a word that stands for no instruction (30_encoding.md R96).
Log entry 10. -/
def wordText (nbits w : Nat) : Option Text :=
  match decodeWord (BitVec.ofNat 32 (w % 2 ^ nbits)) with
  | .instr i => some i.text
  | .unknown => some ['u', 'n', 'k', 'n', 'o', 'w', 'n']
  | .noInstruction => none

end Sys2Proof
end

