-- ==== Sys2Proof/Machine/State.lean ====
section
/-! DEFINITION. The whole state of the machine (10_state.md section 1), its reset value, and the reasons a step
can stop. -/

namespace Sys2Proof.Machine

/-- The seven control signals (10_state.md R31). ALUOp has two bits, most significant first. -/
structure Control where
  regWrite : Bool
  aluSrc   : Bool
  memWrite : Bool
  memRead  : Bool
  memToReg : Bool
  branch   : Bool
  aluOp    : BitVec 2
  deriving DecidableEq, Repr

/-- A trace entry: the pc before the step and the instruction text fetched (10_state.md R33, decision D23). -/
structure TraceEntry where
  pcBefore : Nat
  text     : Text
  deriving DecidableEq, Repr

/-- The snapshot of one step (10_state.md R31). `aluResult` of a load or store is an unbounded integer and `b` an
immediate or offset (42_control_and_step.md R176), so both are integers. -/
structure StepRecord where
  control   : Control
  a         : Option Word
  b         : Option Int
  aluResult : Option Int
  memDatum  : Option Word
  trace     : TraceEntry
  deriving DecidableEq, Repr

/-- Data memory: (cell index, word) pairs, indices strictly rising and below 256, no pair holding what an
unlisted cell reads as (`Memory.wf`). A cell is a word, since the spec forbids byte-granular storage
(20_memory.md R53). Log entry 5. -/
abbrev Memory := List (Nat × Word)

/-- Everything the spec gives the machine (10_state.md section 1, 00_scope.md R16). -/
structure State where
  /-- `x[0..31]` (R20); `x[0]` is read and written through `State.reg` and `State.setReg` only -/
  regs    : Vector Word 32
  /-- index of the instruction to execute, no width (R24) -/
  pc      : Nat
  /-- the program store, instruction texts (R26) -/
  program : List Text
  /-- `M[0..255]` (R28) -/
  mem     : Memory
  /-- the most recent StepRecord (R31, R32) -/
  last    : Option StepRecord
  /-- the trace log, oldest entry first (R33) -/
  log     : List TraceEntry
  /-- a `run()` is in flight (R35) -/
  running : Bool
  deriving DecidableEq, Repr

/-- The two fault conditions (60_exceptions.md R303), with the information reported. A step that faults changes
no state but `running` (R306), which `stepCommand` in Machine/RunControl.lean clears. -/
inductive Fault where
  /-- Raised by an instruction of any class whose operand check fails, at the first failing position
  (60_exceptions.md R301, R305). Safe: the spec's own fail-fast choice for what its source leaves undefined (D9). -/
  | invalidOperand (pc : Nat) (text : Text) (position : Nat)
  /-- Raised by a taken branch whose target is negative (60_exceptions.md R302). Safe: the spec's own fail-fast
  choice (D11). -/
  | branchTargetNegative (pc : Nat) (text : Text) (target : Int)
  deriving DecidableEq, Repr

/-- Why the model gives no next state. -/
inductive Refusal where
  /-- Raised by an arm of `exec` whose instruction has no meaning yet; no arm raises it now. Safe. -/
  | notModelled (mnemonic : String)
  /-- Raised by `insertInstruction` when `program` already holds PROG_MAX texts: the spec gives the command no
  effect there (10_state.md R26). Never raised by a step. Safe. Log entry 2. -/
  | programFull
  deriving DecidableEq, Repr

/-- The state after initialisation and after `reset()` (10_state.md R40, R41, 70_reset_and_hazards.md R330). -/
def State.reset : State :=
  { regs := Vector.replicate 32 0
    pc := 0
    program := Config.starterProgram
    mem := []
    last := none
    log := []
    running := false }

end Sys2Proof.Machine
end

