-- ==== Sys2Proof/Machine/Alu.lean ====
section
/-! DEFINITION. The ALU (41_alu.md R140 to R147) as a 32-bit unit. -/

namespace Sys2Proof.Machine

/-- Coercion to 32 bits (00_scope.md R9). -/
def wrap32 (v : Int) : Word := BitVec.ofInt 32 v

/-- The shift amount: the low five bits of the second operand (41_alu.md R143). -/
def shiftAmount (b : Word) : Nat := (b.extractLsb' 0 5).toNat

/-- The alternate operation is selected (41_alu.md R141). -/
def isAlternate (funct7 : BitVec 7) : Bool := decide (funct7 = 0x20)

/-- A comparison's result: 1 for true and 0 for false (41_alu.md R145). -/
def boolWord (c : Bool) : Word := if c then 1 else 0

/-- `alu(funct3, funct7, a, b)` (41_alu.md R142): both operands coerced to 32 bits, then one of eight functions;
an unrecognised funct3 would give 0. -/
def alu (funct3 : BitVec 3) (funct7 : BitVec 7) (a b : Int) : Word :=
  let p := wrap32 a
  let q := wrap32 b
  match funct3.toNat with
  | 0 => if isAlternate funct7 then p - q else p + q
  | 1 => p <<< shiftAmount q
  | 2 => boolWord (p.slt q)
  | 3 => boolWord (p.ult q)
  | 4 => p ^^^ q
  | 5 => if isAlternate funct7 then p.sshiftRight (shiftAmount q) else p >>> shiftAmount q
  | 6 => p ||| q
  | 7 => p &&& q
  | _ => 0

end Sys2Proof.Machine
end

