-- ==== Sys2Proof/Machine/Flags.lean ====
section
/-! DEFINITION. The machine has no flags and no condition codes (10_state.md R30). What stands in their place:
the control unit's seven signals (42_control_and_step.md R170 to R174) and the branch comparator's condition
(46_branch.md R251). -/

namespace Sys2Proof.Machine

/-- The control unit: a function of the class alone (42_control_and_step.md R170, R171). The starred entries of
R171 are decision D13. Log entry 8. -/
def controlSignals (c : Cls) : Control :=
  match c with
  | .regReg  => { regWrite := true,  aluSrc := false, memWrite := false, memRead := false,
                  memToReg := false, branch := false, aluOp := 0b10 }
  | .regImm  => { regWrite := true,  aluSrc := true,  memWrite := false, memRead := false,
                  memToReg := false, branch := false, aluOp := 0b10 }
  | .load    => { regWrite := true,  aluSrc := true,  memWrite := false, memRead := true,
                  memToReg := true,  branch := false, aluOp := 0b00 }
  | .store   => { regWrite := false, aluSrc := true,  memWrite := true,  memRead := false,
                  memToReg := false, branch := false, aluOp := 0b00 }
  | .branch  => { regWrite := false, aluSrc := false, memWrite := false, memRead := false,
                  memToReg := false, branch := true,  aluOp := 0b01 }
  | .noClass => { regWrite := false, aluSrc := false, memWrite := false, memRead := false,
                  memToReg := false, branch := false, aluOp := 0b00 }

/-- The branch condition (46_branch.md R251); funct3 values 2 and 3 give false (D21) and reach no mnemonic. -/
def branchCondition (funct3 : BitVec 3) (p q : Word) : Bool :=
  match funct3.toNat with
  | 0 => decide (p = q)
  | 1 => decide (p ≠ q)
  | 4 => p.slt q
  | 5 => !p.slt q
  | 6 => p.ult q
  | 7 => !p.ult q
  | _ => false

end Sys2Proof.Machine
end

