-- ==== Sys2Proof/Machine/Operands.lean ====
section
/-! DEFINITION. The checked operand accessors (00_scope.md R13) and the operand check of each class, made before
any state is read or written, positions in the order 0, 1, 2 (42_control_and_step.md R181, 60_exceptions.md R305).
A failed check answers the first failing position. -/

namespace Sys2Proof.Machine

/-- `reg(k)`: present and an integer in [0, 31] (00_scope.md R13). -/
def regAt (ops : List Operand) (k : Nat) : Option Reg :=
  match ops[k]? with
  | some (.int v) => if 0 ≤ v ∧ v < 32 then some (Fin.ofNat 32 v.toNat) else none
  | _ => none

/-- An integer in IMM_RANGE (40_decoder.md R118). -/
def inImmRange (v : Int) : Bool := decide (Config.immMin ≤ v) && decide (v ≤ Config.immMax)

/-- `imm(k)`: present and an integer in IMM_RANGE (00_scope.md R13). -/
def immAt (ops : List Operand) (k : Nat) : Option Int :=
  match ops[k]? with
  | some (.int v) => if inImmRange v then some v else none
  | _ => none

/-- `imm(k, d)`: the default `d` where absent (00_scope.md R13). -/
def immAtOr (ops : List Operand) (k : Nat) (d : Int) : Option Int :=
  match ops[k]? with
  | none => some d
  | some _ => immAt ops k

/-- Two registers and a third value, or the first position whose check failed. -/
def checked {α : Type} (p q : Option Reg) (r : Option α) : Except Nat (Reg × Reg × α) :=
  match p, q, r with
  | none, _, _ => .error 0
  | some _, none, _ => .error 1
  | some _, some _, none => .error 2
  | some p, some q, some r => .ok (p, q, r)

/-- R class: `rd`, `rs1`, `rs2` (30_encoding.md R83). -/
def rOperands (ops : List Operand) : Except Nat (Reg × Reg × Reg) :=
  checked (regAt ops 0) (regAt ops 1) (regAt ops 2)

/-- I class: `rd`, `rs1`, `imm`, with no default (30_encoding.md R83). -/
def iOperands (ops : List Operand) : Except Nat (Reg × Reg × Int) :=
  checked (regAt ops 0) (regAt ops 1) (immAt ops 2)

/-- Load: `rd`, `rs1`, `offset`; store: `rs2`, `rs1`, `offset` (30_encoding.md R83, 45_load_store.md R243). -/
def memOperands (ops : List Operand) : Except Nat (Reg × Reg × Int) :=
  checked (regAt ops 0) (regAt ops 1) (immAtOr ops 2 Config.defaultMemOffset)

/-- Branch: `rs1`, `rs2`, `offset` (30_encoding.md R83, 46_branch.md R261). -/
def branchOperands (ops : List Operand) : Except Nat (Reg × Reg × Int) :=
  checked (regAt ops 0) (regAt ops 1) (immAtOr ops 2 Config.defaultBranchOffset)

end Sys2Proof.Machine
end

