-- ==== Sys2Proof/Machine/Ops.lean ====
section
/-! DEFINITION. The named operations over state: registers, data memory, fetch, the commit of a completed step,
the fall-through of an unknown mnemonic, raising a fault, and the common step of each instruction class
(42_control_and_step.md R180). The machine has no exception entry and no return from one: a fault stops the step
and is reported to the host (60_exceptions.md R306, R308). -/

namespace Sys2Proof.Machine

/-! ## Registers -/

/-- `x[i]` (10_state.md R21): index 0 reads 0. -/
def State.reg (s : State) (i : Reg) : Word := if i = 0 then 0 else s.regs[i]

/-- `x[i] <- v` (10_state.md R22): index 0 is not written. -/
def State.setReg (s : State) (i : Reg) (v : Word) : State :=
  if i = 0 then s else { s with regs := s.regs.set i v }

/-- A register's signed value (10_state.md R20). -/
def State.x (s : State) (i : Reg) : Int := (s.reg i).toInt

/-! ## Data memory -/

/-- What a cell nothing has written reads as: the reset value (10_state.md R40). -/
def Memory.unlisted : Word := 0

/-- The canonical form from index `lo` on. -/
def Memory.wfFrom (lo : Nat) : Memory → Bool
  | [] => true
  | (k, v) :: m =>
    decide (lo ≤ k) && decide (k < Config.memWords) && decide (v ≠ Memory.unlisted) && Memory.wfFrom (k + 1) m

/-- The canonical form: indices strictly rising and below 256, no word equal to what an unlisted cell reads as. -/
def Memory.wf (m : Memory) : Bool := Memory.wfFrom 0 m

/-- `M[k]` (10_state.md R28). -/
def Memory.read (m : Memory) (k : Nat) : Word :=
  match m with
  | [] => Memory.unlisted
  | (j, v) :: rest => if j = k then v else Memory.read rest k

/-- `M[k] <- v`, keeping the canonical form (10_state.md R28). -/
def Memory.write (m : Memory) (k : Nat) (v : Word) : Memory :=
  match m with
  | [] => if v = Memory.unlisted then [] else [(k, v)]
  | (j, u) :: rest =>
    if k < j then (if v = Memory.unlisted then (j, u) :: rest else (k, v) :: (j, u) :: rest)
    else if k = j then (if v = Memory.unlisted then rest else (k, v) :: rest)
    else (j, u) :: Memory.write rest k v

/-- The cell a byte address selects: `floor(addr / 4) mod 256` with the non-negative remainder
(20_memory.md R50, decision D5). -/
def cellIndex (addr : Int) : Nat := (addr / 4 % 256).toNat

/-- `MemRead(addr, 4)` (00_scope.md R11). -/
def State.load (s : State) (addr : Int) : Word := Memory.read s.mem (cellIndex addr)

/-- `MemWrite(addr, 4, v)` (00_scope.md R11). -/
def State.store (s : State) (addr : Int) (v : Word) : State :=
  { s with mem := Memory.write s.mem (cellIndex addr) v }

/-! ## Fetch and commit -/

/-- The instruction text at `pc`; none when halted (42_control_and_step.md R180, 10_state.md R34). -/
def State.fetch (s : State) : Option Text := s.program[s.pc]?

/-- `halted` (10_state.md R34). -/
def State.halted (s : State) : Bool := decide (s.program.length ≤ s.pc)

/-- The text of the instruction being executed. Outside program bounds, where no step executes, it is a text left
open (log entry 6). -/
def State.currentText (s : State) : Text := s.fetch.getD Config.absentText

/-- The trace entry of the step being executed (10_state.md R33). -/
def State.entry (s : State) : TraceEntry := { pcBefore := s.pc, text := s.currentText }

/-- COMMIT (42_control_and_step.md R180): the next pc, one log entry, a fresh StepRecord. -/
def State.commit (s : State) (next : Nat) (c : Control) (a : Option Word) (b aluResult : Option Int)
    (memDatum : Option Word) : State :=
  { s with
    pc := next
    log := s.log ++ [s.entry]
    last := some { control := c, a := a, b := b, aluResult := aluResult, memDatum := memDatum, trace := s.entry } }

/-- What a record of class `none` does (47_unknown_and_system.md R270, R271). -/
def State.fallThrough (s : State) : State := s.commit (s.pc + 1) (controlSignals .noClass) none none none none

/-! ## Faults -/

/-- `raise InvalidOperand`, with the information of 60_exceptions.md R301. -/
def raiseInvalidOperand (s : State) (position : Nat) : Host.Outcome State Fault Refusal :=
  .fault (.invalidOperand s.pc s.currentText position)

/-- `raise BranchTargetNegative`, with the information of 60_exceptions.md R302. -/
def raiseBranchTargetNegative (s : State) (target : Int) : Host.Outcome State Fault Refusal :=
  .fault (.branchTargetNegative s.pc s.currentText target)

/-! ## The class steps (42_control_and_step.md R180) -/

/-- R class (43_r_class.md R210). -/
def runR (funct3 : BitVec 3) (funct7 : BitVec 7) (ops : List Operand) (s : State) :
    Host.Outcome State Fault Refusal :=
  match rOperands ops with
  | .error k => raiseInvalidOperand s k
  | .ok (rd, rs1, rs2) =>
    let r := alu funct3 funct7 (s.x rs1) (s.x rs2)
    .next ((s.setReg rd r).commit (s.pc + 1) (controlSignals .regReg)
      (some (s.reg rs1)) (some (s.x rs2)) (some r.toInt) none)

/-- I class (44_i_class.md R230). -/
def runI (funct3 : BitVec 3) (funct7 : BitVec 7) (ops : List Operand) (s : State) :
    Host.Outcome State Fault Refusal :=
  match iOperands ops with
  | .error k => raiseInvalidOperand s k
  | .ok (rd, rs1, imm) =>
    let r := alu funct3 funct7 (s.x rs1) imm
    .next ((s.setReg rd r).commit (s.pc + 1) (controlSignals .regImm)
      (some (s.reg rs1)) (some imm) (some r.toInt) none)

/-- Load (45_load_store.md R240, R242). -/
def runLoad (ops : List Operand) (s : State) : Host.Outcome State Fault Refusal :=
  match memOperands ops with
  | .error k => raiseInvalidOperand s k
  | .ok (rd, rs1, off) =>
    let addr := s.x rs1 + off
    let v := s.load addr
    .next ((s.setReg rd v).commit (s.pc + 1) (controlSignals .load)
      (some (s.reg rs1)) (some off) (some addr) (some v))

/-- Store (45_load_store.md R241, R242). -/
def runStore (ops : List Operand) (s : State) : Host.Outcome State Fault Refusal :=
  match memOperands ops with
  | .error k => raiseInvalidOperand s k
  | .ok (rs2, rs1, off) =>
    let addr := s.x rs1 + off
    .next ((s.store addr (s.reg rs2)).commit (s.pc + 1) (controlSignals .store)
      (some (s.reg rs1)) (some off) (some addr) (some (s.reg rs2)))

/-- A branch completes with the next pc `next` (46_branch.md R250). -/
def State.commitBranch (s : State) (rs1 rs2 : Reg) (next : Nat) : State :=
  s.commit next (controlSignals .branch) (some (s.reg rs1)) (some (s.x rs2)) none none

/-- Branch (46_branch.md R250, R252). -/
def runBranch (funct3 : BitVec 3) (ops : List Operand) (s : State) : Host.Outcome State Fault Refusal :=
  match branchOperands ops with
  | .error k => raiseInvalidOperand s k
  | .ok (rs1, rs2, off) =>
    if branchCondition funct3 (s.reg rs1) (s.reg rs2) then
      (if (s.pc : Int) + off < 0 then raiseBranchTargetNegative s (s.pc + off)
       else .next (s.commitBranch rs1 rs2 ((s.pc : Int) + off).toNat))
    else .next (s.commitBranch rs1 rs2 (s.pc + 1))

/-! ## Placing an instruction where the next fetch finds it -/

/-- The list with `t` at index `k`, made long enough with empty texts where it is shorter. -/
def placeAt (t : Text) : Nat → List Text → List Text
  | 0, l => t :: l.tail
  | k + 1, l => l.headD [] :: placeAt t k l.tail

/-- The text placed at `pc`. -/
def State.placeText (s : State) (t : Text) : State := { s with program := placeAt t s.pc s.program }

/-- The text of a table word placed at `pc`; a word that stands for no instruction places nothing. -/
def State.placeWord (s : State) (nbits w : Nat) : State :=
  match wordText nbits w with
  | some t => s.placeText t
  | none => s

end Sys2Proof.Machine
end

