-- ==== Sys2Proof/Machine/Branch.lean ====
section
/-! DEFINITION. The branch instructions (46_branch.md), each the common branch step with its own funct3. -/

namespace Sys2Proof.Machine

/-- `beq` (46_branch.md R253). -/
def execBeq (ops : List Operand) (s : State) : Host.Outcome State Fault Refusal :=
  runBranch 0 ops s

/-- `bne` (46_branch.md R254). -/
def execBne (ops : List Operand) (s : State) : Host.Outcome State Fault Refusal :=
  runBranch 1 ops s

/-- `blt` (46_branch.md R255). -/
def execBlt (ops : List Operand) (s : State) : Host.Outcome State Fault Refusal :=
  runBranch 4 ops s

/-- `bge` (46_branch.md R256). -/
def execBge (ops : List Operand) (s : State) : Host.Outcome State Fault Refusal :=
  runBranch 5 ops s

/-- `bltu` (46_branch.md R257). -/
def execBltu (ops : List Operand) (s : State) : Host.Outcome State Fault Refusal :=
  runBranch 6 ops s

/-- `bgeu` (46_branch.md R258). -/
def execBgeu (ops : List Operand) (s : State) : Host.Outcome State Fault Refusal :=
  runBranch 7 ops s

end Sys2Proof.Machine
end

