-- ==== Sys2Proof/Machine/IClass.lean ====
section
/-! DEFINITION. The I-class instructions (44_i_class.md), each the common I step with its own funct3 and funct7. -/

namespace Sys2Proof.Machine

/-- `addi` (44_i_class.md R220). -/
def execAddi (ops : List Operand) (s : State) : Host.Outcome State Fault Refusal :=
  runI 0 0x00 ops s

/-- `slti` (44_i_class.md R221). -/
def execSlti (ops : List Operand) (s : State) : Host.Outcome State Fault Refusal :=
  runI 2 0x00 ops s

/-- `sltiu` (44_i_class.md R222). -/
def execSltiu (ops : List Operand) (s : State) : Host.Outcome State Fault Refusal :=
  runI 3 0x00 ops s

/-- `xori` (44_i_class.md R223). -/
def execXori (ops : List Operand) (s : State) : Host.Outcome State Fault Refusal :=
  runI 4 0x00 ops s

/-- `ori` (44_i_class.md R224). -/
def execOri (ops : List Operand) (s : State) : Host.Outcome State Fault Refusal :=
  runI 6 0x00 ops s

/-- `andi` (44_i_class.md R225). -/
def execAndi (ops : List Operand) (s : State) : Host.Outcome State Fault Refusal :=
  runI 7 0x00 ops s

/-- `slli` (44_i_class.md R226). -/
def execSlli (ops : List Operand) (s : State) : Host.Outcome State Fault Refusal :=
  runI 1 0x00 ops s

/-- `srli` (44_i_class.md R227). -/
def execSrli (ops : List Operand) (s : State) : Host.Outcome State Fault Refusal :=
  runI 5 0x00 ops s

/-- `srai` (44_i_class.md R228). -/
def execSrai (ops : List Operand) (s : State) : Host.Outcome State Fault Refusal :=
  runI 5 0x20 ops s

end Sys2Proof.Machine
end

