-- ==== Sys2Proof/Machine/LoadStore.lean ====
section
/-! DEFINITION. The load and the store (45_load_store.md). -/

namespace Sys2Proof.Machine

/-- `lw` (45_load_store.md R240). -/
def execLw (ops : List Operand) (s : State) : Host.Outcome State Fault Refusal := runLoad ops s

/-- `sw` (45_load_store.md R241). -/
def execSw (ops : List Operand) (s : State) : Host.Outcome State Fault Refusal := runStore ops s

end Sys2Proof.Machine
end

