-- ==== Sys2Proof/Machine/RClass.lean ====
section
/-! DEFINITION. The R-class instructions (43_r_class.md), each the common R step with its own funct3 and funct7. -/

namespace Sys2Proof.Machine

/-- `add` (43_r_class.md R200). -/
def execAdd (ops : List Operand) (s : State) : Host.Outcome State Fault Refusal :=
  runR 0 0x00 ops s

/-- `sub` (43_r_class.md R201). -/
def execSub (ops : List Operand) (s : State) : Host.Outcome State Fault Refusal :=
  runR 0 0x20 ops s

/-- `sll` (43_r_class.md R202). -/
def execSll (ops : List Operand) (s : State) : Host.Outcome State Fault Refusal :=
  runR 1 0x00 ops s

/-- `slt` (43_r_class.md R203). -/
def execSlt (ops : List Operand) (s : State) : Host.Outcome State Fault Refusal :=
  runR 2 0x00 ops s

/-- `sltu` (43_r_class.md R204). -/
def execSltu (ops : List Operand) (s : State) : Host.Outcome State Fault Refusal :=
  runR 3 0x00 ops s

/-- `xor` (43_r_class.md R205). -/
def execXor (ops : List Operand) (s : State) : Host.Outcome State Fault Refusal :=
  runR 4 0x00 ops s

/-- `srl` (43_r_class.md R206). -/
def execSrl (ops : List Operand) (s : State) : Host.Outcome State Fault Refusal :=
  runR 5 0x00 ops s

/-- `sra` (43_r_class.md R207). -/
def execSra (ops : List Operand) (s : State) : Host.Outcome State Fault Refusal :=
  runR 5 0x20 ops s

/-- `or` (43_r_class.md R208). -/
def execOr (ops : List Operand) (s : State) : Host.Outcome State Fault Refusal :=
  runR 6 0x00 ops s

/-- `and` (43_r_class.md R209). -/
def execAnd (ops : List Operand) (s : State) : Host.Outcome State Fault Refusal :=
  runR 7 0x00 ops s

end Sys2Proof.Machine
end

