-- ==== Sys2Proof/Machine/Step.lean ====
section
/-! DEFINITION. One `step()` of the core (49_run_control.md R282): nothing when halted, otherwise `executeOne`
(42_control_and_step.md R180) on the text at `pc`. -/

namespace Sys2Proof.Machine

/-- `step()` (49_run_control.md R282). A record of class `none` falls through (47_unknown_and_system.md R270). -/
def step (s : State) : Host.Outcome State Fault Refusal :=
  match s.fetch with
  | none => .next s
  | some text =>
    match (decode text).instr with
    | some i => exec i s
    | none => .next s.fallThrough

/-- The instruction a table word stands for, stored as its text where the next step fetches (log entry 10). -/
def State.withFetchWord (s : State) (nbits w : Nat) : State := s.placeWord nbits w

end Sys2Proof.Machine
end

