-- ==== Sys2Proof/Machine/RunControl.lean ====
section
/-! DEFINITION. Run control and the host interface (49_run_control.md): every host command, the tick of the run
timer, and the queries. A command acts between steps only (R281); a session is a list of commands in the order
the host issues them (log entry 9). -/

namespace Sys2Proof.Machine

/-- The host's commands (49_run_control.md R280) and the tick of a run (R283). -/
inductive Command where
  | step
  | run
  | tick
  | stop
  | reset
  | insert (text : Text) (position : Option Int)
  | remove (index : Int)
  deriving DecidableEq, Repr

/-- What a command reports to its caller (49_run_control.md R282). -/
inductive Report where
  /-- a step completed: its StepRecord -/
  | done (record : Option StepRecord)
  /-- the terminal condition -/
  | halted
  /-- the step raised a fault -/
  | fault (reason : Fault)
  /-- the model gives the command no effect -/
  | refused (reason : Refusal)
  /-- nothing to report -/
  | silent
  deriving DecidableEq, Repr

/-- `step()` (49_run_control.md R282). A fault changes nothing but `running` (60_exceptions.md R306, log entry 11).
A step issued by hand while a run is in flight that reaches the end of the program leaves `running = 1` until the
next tick: R284 speaks of a tick only (log entry 14, DESIGN CHOICE). -/
def stepCommand (s : State) : State × Report :=
  if s.halted then (s, .halted)
  else
    match step s with
    | .next t => (t, .done t.last)
    | .fault f => ({ s with running := false }, .fault f)
    | .refused r => (s, .refused r)

/-- `running <- 0` where the machine is halted (49_run_control.md R284). -/
def State.endRunIfHalted (s : State) : State := if s.halted then { s with running := false } else s

/-- One tick (49_run_control.md R283, R284, R286). No tick occurs while `running = 0`. -/
def tickCommand (s : State) : State × Report :=
  if s.running then ((stepCommand s).1.endRunIfHalted, (stepCommand s).2) else (s, .silent)

/-- `run()` (49_run_control.md R283). -/
def runCommand (s : State) : State × Report := ({ s with running := true }, .silent)

/-- `stop()` (49_run_control.md R285). -/
def stopCommand (s : State) : State × Report := ({ s with running := false }, .silent)

/-- `reset()` (49_run_control.md R287). -/
def resetCommand (_ : State) : State × Report := (State.reset, .silent)

/-- Where `insertInstruction` inserts: at the end where no position is given; none for a position outside
0..len(program) (49_run_control.md R288). -/
def insertPosition (length : Nat) (position : Option Int) : Option Nat :=
  match position with
  | none => some length
  | some p => if 0 ≤ p ∧ p ≤ (length : Int) then some p.toNat else none

/-- `insertInstruction(text, position?)` (49_run_control.md R288). A program of PROG_MAX texts takes no more
(10_state.md R26, log entry 2). -/
def insertCommand (text : Text) (position : Option Int) (s : State) : State × Report :=
  match insertPosition s.program.length position with
  | none => (s, .silent)
  | some p =>
    if s.program.length < Config.progMax then
      ({ s with program := s.program.take p ++ text :: s.program.drop p }, .silent)
    else (s, .refused .programFull)

/-- `removeInstruction(index)` (49_run_control.md R289, R291): `pc` becomes 0 where it exceeds the new length,
strictly. -/
def removeCommand (index : Int) (s : State) : State × Report :=
  if 0 ≤ index ∧ index < (s.program.length : Int) then
    let program := s.program.eraseIdx index.toNat
    ({ s with program := program, pc := if program.length < s.pc then 0 else s.pc }, .silent)
  else (s, .silent)

/-- One command (49_run_control.md R294). -/
def applyCommand (c : Command) (s : State) : State × Report :=
  match c with
  | .step => stepCommand s
  | .run => runCommand s
  | .tick => tickCommand s
  | .stop => stopCommand s
  | .reset => resetCommand s
  | .insert text position => insertCommand text position s
  | .remove index => removeCommand index s

/-- A session: the commands in the order they arrive (49_run_control.md R281). -/
def runSession (cs : List Command) (s : State) : State := cs.foldl (fun t c => (applyCommand c t).1) s

/-- What the host may read between steps: the list of 49_run_control.md R293, and `running`, since a query may read
any state (R294) and `running` is state visible to the host (00_scope.md R16, 10_state.md R37). -/
structure Snapshot where
  registers : List Word
  memory    : List Word
  pc        : Nat
  program   : List Text
  last      : Option StepRecord
  log       : List TraceEntry
  running   : Bool
  halted    : Bool
  deriving DecidableEq, Repr

/-- The queries: 32 registers, 256 words, and the rest as it stands; reading changes nothing
(49_run_control.md R293, R294). -/
def State.snapshot (s : State) : Snapshot :=
  { registers := (List.finRange 32).map s.reg
    memory := (List.range Config.memWords).map (Memory.read s.mem)
    pc := s.pc
    program := s.program
    last := s.last
    log := s.log
    running := s.running
    halted := s.halted }

end Sys2Proof.Machine
end

