-- ==== Sys2Proof/Safety.lean ====
section
/-! DEFINITION. The terms claims are stated in: operand sequences with checked roles, integer formulas of the
spec, what a step may change, the invariant, and the parts of state a program can observe. -/

namespace Sys2Proof.Machine

/-! ## Operand sequences (30_encoding.md R83) -/

/-- A register operand. -/
def regOp (r : Reg) : Operand := .int (r.val : Int)

/-- An immediate or offset in IMM_RANGE (40_decoder.md R118). -/
def InImmRange (v : Int) : Prop := Config.immMin ≤ v ∧ v ≤ Config.immMax

/-- Operands of a load, store or branch: two registers, and a third operand (with any further ones) or none. -/
def offsetOps (p q : Reg) (third : Option (Int × List Operand)) : List Operand :=
  regOp p :: regOp q :: (match third with | none => [] | some (v, rest) => .int v :: rest)

/-- The offset those operands give, `d` where the third is absent. -/
def offsetOr (d : Int) (third : Option (Int × List Operand)) : Int :=
  match third with
  | none => d
  | some (v, _) => v

/-- Whether position `k` holds what the class needs there; positions beyond the third are never used
(30_encoding.md R83, 40_decoder.md R122). -/
def positionFits (c : Cls) (ops : List Operand) (k : Nat) : Bool :=
  match c, k with
  | .noClass, _ => true
  | _, 0 => ops[0]?.any Operand.isReg
  | _, 1 => ops[1]?.any Operand.isReg
  | .regReg, 2 => ops[2]?.any Operand.isReg
  | .regImm, 2 => ops[2]?.any Operand.isImm
  | _, 2 => ops[2]?.all Operand.isImm
  | _, _ => true

/-- Position `k` is the first of the class's positions that does not hold what it needs. -/
def FirstUnfit (c : Cls) (ops : List Operand) (k : Nat) : Prop :=
  positionFits c ops k = false ∧ ∀ j, j < k → positionFits c ops j = true

/-- The upper-case form of an ASCII letter; any other character as it is. -/
def upperAscii (c : Char) : Char := if 97 ≤ c.toNat ∧ c.toNat ≤ 122 then Char.ofNat (c.toNat - 32) else c

/-- The text decodes to this record, of this class, which stands for this instruction or for none
(40_decoder.md R110, R111). -/
def DecodesTo (text : String) (r : Record) (c : Cls) (i : Option Instr) : Prop :=
  decode text.toList = r ∧ r.cls = c ∧ r.instr = i

/-! ## Integer formulas -/

/-- `u32(v) = v mod 2^32` (00_scope.md R9). -/
def u32 (v : Int) : Nat := (v % 4294967296).toNat

/-- `wrap32(v)` as an integer: the value in [-2^31, 2^31) congruent to `v` modulo 2^32 (00_scope.md R9). -/
def wrapInt (v : Int) : Int := Int.bmod v 4294967296

/-- 1 for true and 0 for false (41_alu.md R145). -/
def truth (c : Prop) [Decidable c] : Int := if c then 1 else 0

/-- The ALU function as 41_alu.md R142 writes it, on integers. -/
def aluFormula (funct3 : BitVec 3) (funct7 : BitVec 7) (a b : Int) : Int :=
  let p := wrapInt a
  let q := wrapInt b
  let sh := u32 q % 32
  match funct3.toNat with
  | 0 => if funct7 = 0x20 then wrapInt (p - q) else wrapInt (p + q)
  | 1 => wrapInt (p * 2 ^ sh)
  | 2 => truth (p < q)
  | 3 => truth (u32 p < u32 q)
  | 4 => wrapInt ((u32 p ^^^ u32 q : Nat) : Int)
  | 5 => if funct7 = 0x20 then p / 2 ^ sh else wrapInt ((u32 p / 2 ^ sh : Nat) : Int)
  | 6 => wrapInt ((u32 p ||| u32 q : Nat) : Int)
  | 7 => wrapInt ((u32 p &&& u32 q : Nat) : Int)
  | _ => 0

/-- The branch condition as 46_branch.md R251 writes it, on integers. -/
def conditionFormula (funct3 : BitVec 3) (p q : Int) : Prop :=
  match funct3.toNat with
  | 0 => p = q
  | 1 => p ≠ q
  | 4 => p < q
  | 5 => p ≥ q
  | 6 => u32 p < u32 q
  | 7 => u32 p ≥ u32 q
  | _ => False

/-! ## What a step changes -/

/-- Every register reads as before. -/
def KeepsRegs (s t : State) : Prop := ∀ r, t.x r = s.x r

/-- Every cell of memory reads as before. -/
def KeepsMem (s t : State) : Prop := ∀ k, Memory.read t.mem k = Memory.read s.mem k

/-- Register `rd` reads as the value `v`, unless it is `x0`; every other register reads as before. -/
def WritesReg (s t : State) (rd : Reg) (v : Int) : Prop :=
  ∀ r, t.x r = if r = rd ∧ r ≠ 0 then v else s.x r

/-- Cell `k` reads as the word `v`; every other cell reads as before. -/
def WritesCell (s t : State) (k : Nat) (v : Word) : Prop :=
  ∀ j, Memory.read t.mem j = if j = k then v else Memory.read s.mem j

/-- The next pc is `next`, the log has exactly one more entry, which holds the pc before; the program and the run
flag are unchanged (42_control_and_step.md R180, R183). -/
def Advances (s t : State) (next : Int) : Prop :=
  (t.pc : Int) = next ∧ (∃ e, t.log = s.log ++ [e] ∧ e.pcBefore = s.pc) ∧
  t.program = s.program ∧ t.running = s.running

/-- An instruction of class R with these fields completes on every register operands (and any further ones),
writing `f` of its sources' values to its destination and changing nothing else but `pc`, `log` and `last`. -/
def RResult (m : Mnemonic) (funct3 : BitVec 3) (funct7 : BitVec 7) (f : Int → Int → Int) : Prop :=
  m.row.funct3 = funct3 ∧ m.row.funct7 = funct7 ∧
  ∀ (s : State) (rd rs1 rs2 : Reg) (rest : List Operand), ∃ t,
    exec (m.instr (regOp rd :: regOp rs1 :: regOp rs2 :: rest)) s = .next t ∧
    WritesReg s t rd (f (s.x rs1) (s.x rs2)) ∧ KeepsMem s t ∧ Advances s t (s.pc + 1)

/-- An instruction of class I with these fields completes on every two registers and immediate in IMM_RANGE,
writing `f` of its source's value and the immediate to its destination and changing nothing else but `pc`,
`log` and `last`. -/
def IResult (m : Mnemonic) (funct3 : BitVec 3) (funct7 : BitVec 7) (f : Int → Int → Int) : Prop :=
  m.row.funct3 = funct3 ∧ m.row.funct7 = funct7 ∧
  ∀ (s : State) (rd rs1 : Reg) (imm : Int) (rest : List Operand), InImmRange imm → ∃ t,
    exec (m.instr (regOp rd :: regOp rs1 :: .int imm :: rest)) s = .next t ∧
    WritesReg s t rd (f (s.x rs1) imm) ∧ KeepsMem s t ∧ Advances s t (s.pc + 1)

/-- A branch with this funct3 completes on every two registers and offset in IMM_RANGE (1 where absent): where
`c` holds of the two registers' values and the target is no negative number, `pc` becomes the target; where `c`
does not hold, `pc + 1`. Nothing else changes but `log` and `last`. -/
def BranchResult (m : Mnemonic) (funct3 : BitVec 3) (c : Int → Int → Prop) : Prop :=
  m.row.funct3 = funct3 ∧
  ∀ (s : State) (rs1 rs2 : Reg) (third : Option (Int × List Operand)), InImmRange (offsetOr 1 third) →
    (c (s.x rs1) (s.x rs2) → 0 ≤ (s.pc : Int) + offsetOr 1 third → ∃ t,
      exec (m.instr (offsetOps rs1 rs2 third)) s = .next t ∧
      KeepsRegs s t ∧ KeepsMem s t ∧ Advances s t (s.pc + offsetOr 1 third)) ∧
    (¬ c (s.x rs1) (s.x rs2) → ∃ t,
      exec (m.instr (offsetOps rs1 rs2 third)) s = .next t ∧
      KeepsRegs s t ∧ KeepsMem s t ∧ Advances s t (s.pc + 1))

/-! ## The invariant -/

/-- A control vector the control unit can give (42_control_and_step.md R171, R172). -/
def Control.legal (c : Control) : Prop :=
  ¬ (c.regWrite = true ∧ c.memWrite = true) ∧ ¬ (c.memRead = true ∧ c.memWrite = true) ∧
  (c.memToReg = true → c.memRead = true) ∧
  (c.branch = true → c.regWrite = false ∧ c.memWrite = false) ∧ c.aluOp ≠ 0b11

/-- What every reachable state satisfies: memory in its canonical form (20_memory.md R57), the slot of `x0` zero
(10_state.md R22), the program within PROG_MAX (R26), the last StepRecord's control vector legal
(42_control_and_step.md R172, R174), and its trace the newest log entry, there being a StepRecord exactly when the
log is not empty (10_state.md R32, R33). -/
def State.Inv (s : State) : Prop :=
  Memory.wf s.mem = true ∧ s.regs[0] = 0 ∧ s.program.length ≤ Config.progMax ∧
  (∀ r, s.last = some r → r.control.legal) ∧ s.last.map StepRecord.trace = s.log.getLast?

/-! ## What a program can observe (10_state.md R37) -/

/-- The two states agree on registers, memory, `pc` and `program`. -/
def SameArchitecture (s t : State) : Prop :=
  s.regs = t.regs ∧ s.mem = t.mem ∧ s.pc = t.pc ∧ s.program = t.program

/-- The outcome's next state, where it has one. -/
def nextState (o : Host.Outcome State Fault Refusal) : Option State :=
  match o with
  | .next t => some t
  | _ => none

/-- The outcome's fault, where it has one. -/
def faultOf (o : Host.Outcome State Fault Refusal) : Option Fault :=
  match o with
  | .fault f => some f
  | _ => none

end Sys2Proof.Machine
end

