-- ==== Sys2Proof/Certificates/Slice0/Obligations.lean ====
section
/-! DEFINITION. The statements for the provers. Each docstring names the rule of spec/ it formalises, or the
decision of the spec or the log entry it rests on. -/

open Sys2Proof Sys2Proof.Machine

/-- 30_encoding.md R93 to R96 (the spec's own word form, decision D3): packing then unpacking, and the domain. -/
def Obligations.EncodedWordDecodesBack : Prop :=
  (∀ (i : Instr) (w : Word), encode i = some w → ∃ p q r : Int,
    decodeWord w = .instr (i.mnemonic.instr [.int p, .int q, .int r]) ∧
    i.operands[0]? = some (.int p) ∧ i.operands[1]? = some (.int q) ∧
    (i.operands[2]? = some (.int r) ∨ (i.operands[2]? = none ∧
      ((i.cls = .load ∨ i.cls = .store) ∧ r = 0 ∨ i.cls = .branch ∧ r = 1)))) ∧
  (∀ i : Instr, (encode i).isSome = true ↔
    i.wellFormed = true ∧ ∀ v : Int, i.operands[2]? = some (.int v) →
      match i.mnemonic.format with
      | .r => True
      | .i | .s => -2048 ≤ v ∧ v ≤ 2047
      | .iShift => 0 ≤ v ∧ v ≤ 31
      | .b => -1024 ≤ v ∧ v ≤ 1023)

/-- 40_decoder.md R110 to R119: decoding the text of an instruction gives the instruction. -/
def Obligations.RenderedTextDecodesBack : Prop :=
  ∀ i : Instr,
    (decode i.text).instr = some i ∧ (decode i.text).mnemonic = i.mnemonic.row.name ∧
    (decode i.text).operands = i.operands ∧ (decode i.text).opcode = i.mnemonic.row.opcode ∧
    (decode i.text).funct3 = i.mnemonic.row.funct3 ∧ (decode i.text).funct7 = i.mnemonic.row.funct7

/-- 30_encoding.md R96, R97: the 27 rows are pairwise disjoint. -/
def Obligations.TableRowsArePairwiseDisjoint : Prop :=
  ∀ (w : Word) (m n : Mnemonic), m.matchesWord w = true → n.matchesWord w = true → m = n

/-- Words of 95_test_vectors.md sections 2.3 to 2.7 and 2.11. -/
def Obligations.SpecWordsDecode : Prop :=
  decodeWord 0x002081B3 = .instr (.add [.int 3, .int 1, .int 2]) ∧
  decodeWord 0x40110233 = .instr (.sub [.int 4, .int 2, .int 1]) ∧
  decodeWord 0xFFF08093 = .instr (.addi [.int 1, .int 1, .int (-1)]) ∧
  decodeWord 0x40415093 = .instr (.srai [.int 1, .int 2, .int 4]) ∧
  decodeWord 0xFFC0A183 = .instr (.lw [.int 3, .int 1, .int (-4)]) ∧
  decodeWord 0xFE512C23 = .instr (.sw [.int 5, .int 2, .int (-8)]) ∧
  decodeWord 0xFE009CE3 = .instr (.bne [.int 1, .int 0, .int (-2)]) ∧
  decodeWord 0x00000073 = .unknown ∧ decodeWord 0x00208163 = .noInstruction

/-- 40_decoder.md section 7; decisions D4 and D17, log entry 7, and D1 and D2, log entry 8. -/
def Obligations.SpecTextsDecode : Prop :=
  DecodesTo "addi x1, x0, 10" ⟨"addi".toList, [.int 1, .int 0, .int 10], 0x13, 0, 0x00⟩ .regImm (some (.addi [.int 1, .int 0, .int 10])) ∧
  DecodesTo "  SUB X4,  X2 , X1 " ⟨"sub".toList, [.int 4, .int 2, .int 1], 0x33, 0, 0x20⟩ .regReg (some (.sub [.int 4, .int 2, .int 1])) ∧
  DecodesTo "srai x3 x3 2" ⟨"srai".toList, [.int 3, .int 3, .int 2], 0x13, 5, 0x20⟩ .regImm (some (.srai [.int 3, .int 3, .int 2])) ∧
  DecodesTo "lw x7, 0(x6)" ⟨"lw".toList, [.int 7, .int 6, .int 0], 0x03, 2, 0x00⟩ .load (some (.lw [.int 7, .int 6, .int 0])) ∧
  DecodesTo "sw x5, x6" ⟨"sw".toList, [.int 5, .int 6], 0x23, 2, 0x00⟩ .store (some (.sw [.int 5, .int 6])) ∧
  DecodesTo "beq x1, x2, -3" ⟨"beq".toList, [.int 1, .int 2, .int (-3)], 0x63, 0, 0x00⟩ .branch (some (.beq [.int 1, .int 2, .int (-3)])) ∧
  DecodesTo "add x1,x2,x3" ⟨"add".toList, [.bad], 0x33, 0, 0x00⟩ .regReg (some (.add [.bad])) ∧
  DecodesTo "add x1, x40, x2" ⟨"add".toList, [.int 1, .int 40, .int 2], 0x33, 0, 0x00⟩ .regReg (some (.add [.int 1, .int 40, .int 2])) ∧
  DecodesTo "jal x1, 8" ⟨"jal".toList, [.int 1, .int 8], 0x00, 0, 0x00⟩ .noClass none ∧
  DecodesTo "# comment" ⟨"#".toList, [.bad], 0x00, 0, 0x00⟩ .noClass none ∧
  DecodesTo "" ⟨"".toList, [], 0x00, 0, 0x00⟩ .noClass none

/-- 40_decoder.md R119. -/
def Obligations.DecodedFieldsDependOnMnemonicOnly : Prop :=
  (∀ (t : Text) (m : Mnemonic), (tokenize t).head? = some m.row.name →
    (decode t).opcode = m.row.opcode ∧ (decode t).funct3 = m.row.funct3 ∧ (decode t).funct7 = m.row.funct7) ∧
  (∀ t : Text, (∀ m : Mnemonic, (tokenize t).head? ≠ some m.row.name) →
    (decode t).opcode = 0 ∧ (decode t).funct3 = 0 ∧ (decode t).funct7 = 0) ∧
  (∀ m : Mnemonic, m.row.funct7 ≠ 0 ↔ m = .sub ∨ m = .sra ∨ m = .srai)

/-- 40_decoder.md R112, R113: `ADD X1, X2, X3` and `add x1, x2, x3` decode alike. Restricted to ASCII, since the case of other characters is open (log entry 3). -/
def Obligations.UpperCaseTextDecodesAlike : Prop :=
  ∀ t : Text, (∀ c ∈ t, c.toNat < 128) → decode (t.map upperAscii) = decode t

/-- 42_control_and_step.md R177, R180: fetch, decode, execute. -/
def Obligations.StepExecutesDecodedInstruction : Prop :=
  ∀ (s : State) (text : Text) (i : Instr),
    s.program[s.pc]? = some text → (decode text).instr = some i → step s = exec i s

/-- 47_unknown_and_system.md R270, R271; decisions D8 and D13, log entries 7 and 8. -/
def Obligations.UnknownMnemonicFallsThrough : Prop :=
  ∀ (s : State) (text : Text), s.program[s.pc]? = some text → (∀ m : Mnemonic, (decode text).mnemonic ≠ m.row.name) →
    ∃ t, step s = .next t ∧ KeepsRegs s t ∧ KeepsMem s t ∧ Advances s t (s.pc + 1) ∧
      t.log = s.log ++ [{ pcBefore := s.pc, text := text }] ∧
      t.last = some {
        control := { regWrite := false, aluSrc := false, memWrite := false, memRead := false, memToReg := false,
                     branch := false, aluOp := 0b00 }
        a := none, b := none, aluResult := none, memDatum := none
        trace := { pcBefore := s.pc, text := text } }

/-- 49_run_control.md R282. What running becomes where a step by hand ends the program of a run in flight is log entry 14 and is not stated here. -/
def Obligations.StepCommandReportsItsOutcome : Prop :=
  ∀ s : State,
    (s.program.length ≤ s.pc → stepCommand s = (s, .halted)) ∧
    (s.pc < s.program.length →
      (∃ t r, step s = .next t ∧ t.last = some r ∧ (stepCommand s).2 = .done (some r) ∧
        (stepCommand s).1 = { t with running := (stepCommand s).1.running } ∧
        (s.running = false ∨ t.halted = false → (stepCommand s).1 = t)) ∨
      (∃ f, step s = .fault f ∧ (stepCommand s).2 = .fault f)) ∧
    (∀ b : Bool, (stepCommand { s with running := b }).2 = (stepCommand s).2)

/-- 43_r_class.md R200. -/
def Obligations.AddWrapsModulo : Prop :=
  RResult .add 0 0x00 (fun p q => wrapInt (p + q))

/-- 43_r_class.md R201. Model's note: funct7 = 0x20 is decision D2, log entry 8. -/
def Obligations.SubWrapsModulo : Prop :=
  RResult .sub 0 0x20 (fun p q => wrapInt (p - q))

/-- 43_r_class.md R202. Model's note: sll is a row the spec supplies, decision D1, log entry 8. -/
def Obligations.SllShiftsByLowFiveBits : Prop :=
  RResult .sll 1 0x00 (fun p q => wrapInt (p * 2 ^ (u32 q % 32)))

/-- 43_r_class.md R203. Model's note: slt is a row the spec supplies, decision D1, log entry 8. -/
def Obligations.SltComparesSigned : Prop :=
  RResult .slt 2 0x00 (fun p q => truth (p < q))

/-- 43_r_class.md R204. Model's note: funct3 = 3 is decision D2, log entry 8. -/
def Obligations.SltuComparesUnsigned : Prop :=
  RResult .sltu 3 0x00 (fun p q => truth (u32 p < u32 q))

/-- 43_r_class.md R205. Model's note: xor is a row the spec supplies, decision D1, log entry 8. -/
def Obligations.XorIsBitwise : Prop :=
  RResult .xor 4 0x00 (fun p q => wrapInt ((u32 p ^^^ u32 q : Nat) : Int))

/-- 43_r_class.md R206. -/
def Obligations.SrlShiftsZerosIn : Prop :=
  RResult .srl 5 0x00 (fun p q => wrapInt ((u32 p / 2 ^ (u32 q % 32) : Nat) : Int))

/-- 43_r_class.md R207. Model's note: funct7 = 0x20 is decision D2, log entry 8. -/
def Obligations.SraShiftsSignBitsIn : Prop :=
  RResult .sra 5 0x20 (fun p q => p / 2 ^ (u32 q % 32))

/-- 43_r_class.md R208. Model's note: or is a row the spec supplies, decision D1, log entry 8. -/
def Obligations.OrIsBitwise : Prop :=
  RResult .or 6 0x00 (fun p q => wrapInt ((u32 p ||| u32 q : Nat) : Int))

/-- 43_r_class.md R209. Model's note: and is a row the spec supplies, decision D1, log entry 8. -/
def Obligations.AndIsBitwise : Prop :=
  RResult .and 7 0x00 (fun p q => wrapInt ((u32 p &&& u32 q : Nat) : Int))

/-- 44_i_class.md R220, with IMM_RANGE of decision D7. -/
def Obligations.AddiWrapsModulo : Prop :=
  IResult .addi 0 0x00 (fun p q => wrapInt (p + q))

/-- 44_i_class.md R221, with IMM_RANGE of decision D7. Model's note: slti is a row the spec supplies, decision D1, log entry 8. -/
def Obligations.SltiComparesSigned : Prop :=
  IResult .slti 2 0x00 (fun p q => truth (p < q))

/-- 44_i_class.md R222, with IMM_RANGE of decision D7. Model's note: sltiu is a row the spec supplies, decision D1, log entry 8. -/
def Obligations.SltiuComparesUnsigned : Prop :=
  IResult .sltiu 3 0x00 (fun p q => truth (u32 p < u32 q))

/-- 44_i_class.md R223, with IMM_RANGE of decision D7. Model's note: xori is a row the spec supplies, decision D1, log entry 8. -/
def Obligations.XoriIsBitwise : Prop :=
  IResult .xori 4 0x00 (fun p q => wrapInt ((u32 p ^^^ u32 q : Nat) : Int))

/-- 44_i_class.md R224, with IMM_RANGE of decision D7. Model's note: ori is a row the spec supplies, decision D1, log entry 8. -/
def Obligations.OriIsBitwise : Prop :=
  IResult .ori 6 0x00 (fun p q => wrapInt ((u32 p ||| u32 q : Nat) : Int))

/-- 44_i_class.md R225, with IMM_RANGE of decision D7. Model's note: andi is a row the spec supplies, decision D1, log entry 8. -/
def Obligations.AndiIsBitwise : Prop :=
  IResult .andi 7 0x00 (fun p q => wrapInt ((u32 p &&& u32 q : Nat) : Int))

/-- 44_i_class.md R226, with IMM_RANGE of decision D7. Model's note: slli is a row the spec supplies, decision D1, log entry 8. -/
def Obligations.SlliShiftsByLowFiveBits : Prop :=
  IResult .slli 1 0x00 (fun p q => wrapInt (p * 2 ^ (u32 q % 32)))

/-- 44_i_class.md R227, with IMM_RANGE of decision D7. -/
def Obligations.SrliShiftsZerosIn : Prop :=
  IResult .srli 5 0x00 (fun p q => wrapInt ((u32 p / 2 ^ (u32 q % 32) : Nat) : Int))

/-- 44_i_class.md R228, with IMM_RANGE of decision D7. Model's note: funct7 = 0x20 is decision D2, log entry 8. -/
def Obligations.SraiShiftsSignBitsIn : Prop :=
  IResult .srai 5 0x20 (fun p q => p / 2 ^ (u32 q % 32))

/-- 45_load_store.md R240, R242, R243 and 20_memory.md R50, R54. Negative addresses: decision D5, log entry 8. -/
def Obligations.LwLoadsTheSelectedWord : Prop :=
  ∀ (s : State) (rd rs1 : Reg) (third : Option (Int × List Operand)), InImmRange (offsetOr 0 third) → ∃ t,
    exec (.lw (offsetOps rd rs1 third)) s = .next t ∧
    WritesReg s t rd (Memory.read s.mem ((s.x rs1 + offsetOr 0 third) / 4 % 256).toNat).toInt ∧
    KeepsMem s t ∧ Advances s t (s.pc + 1)

/-- 45_load_store.md R241, R242, R243. Negative addresses: decision D5, log entry 8. -/
def Obligations.SwStoresTheSelectedWord : Prop :=
  ∀ (s : State) (rs2 rs1 : Reg) (third : Option (Int × List Operand)),
    Memory.wf s.mem = true → InImmRange (offsetOr 0 third) → ∃ t,
    exec (.sw (offsetOps rs2 rs1 third)) s = .next t ∧
    WritesCell s t (cellIndex (s.x rs1 + offsetOr 0 third)) (s.reg rs2) ∧
    KeepsRegs s t ∧ Advances s t (s.pc + 1)

/-- 46_branch.md R250, R253. The numeral is decision D2, log entry 8; a negative target has its own statement. -/
def Obligations.BeqBranchesOnEqual : Prop :=
  BranchResult .beq 0 (fun p q => p = q)

/-- 46_branch.md R250, R254. The numeral is decision D2, log entry 8; a negative target has its own statement. -/
def Obligations.BneBranchesOnNotEqual : Prop :=
  BranchResult .bne 1 (fun p q => p ≠ q)

/-- 46_branch.md R250, R255. The numeral is decision D2, log entry 8; a negative target has its own statement. -/
def Obligations.BltBranchesOnSignedLess : Prop :=
  BranchResult .blt 4 (fun p q => p < q)

/-- 46_branch.md R250, R256. The numeral is decision D2, log entry 8; a negative target has its own statement. -/
def Obligations.BgeBranchesOnSignedGreaterOrEqual : Prop :=
  BranchResult .bge 5 (fun p q => p ≥ q)

/-- 46_branch.md R250, R257. The numeral is decision D2, log entry 8; a negative target has its own statement. -/
def Obligations.BltuBranchesOnUnsignedLess : Prop :=
  BranchResult .bltu 6 (fun p q => u32 p < u32 q)

/-- 46_branch.md R250, R258. The numeral is decision D2, log entry 8; a negative target has its own statement. -/
def Obligations.BgeuBranchesOnUnsignedGreaterOrEqual : Prop :=
  BranchResult .bgeu 7 (fun p q => u32 p ≥ u32 q)

/-- 43_r_class.md R210, 42_control_and_step.md R171, R173, R176; decisions D2, D14, D23, log entries 7 and 8. -/
def Obligations.RegisterClassRecordsAndUsesTableFields : Prop :=
  ∀ (m : Mnemonic) (s : State) (rd rs1 rs2 : Reg) (rest : List Operand), m.row.opcode = 0x33 → ∃ t,
    exec (m.instr (regOp rd :: regOp rs1 :: regOp rs2 :: rest)) s = .next t ∧
    WritesReg s t rd (alu m.row.funct3 m.row.funct7 (s.x rs1) (s.x rs2)).toInt ∧
    t.log = s.log ++ [{ pcBefore := s.pc, text := s.currentText }] ∧
    t.last = some {
      control := { regWrite := true, aluSrc := false, memWrite := false, memRead := false, memToReg := false,
                   branch := false, aluOp := 0b10 }
      a := some (s.reg rs1), b := some (s.x rs2)
      aluResult := some (alu m.row.funct3 m.row.funct7 (s.x rs1) (s.x rs2)).toInt, memDatum := none
      trace := { pcBefore := s.pc, text := s.currentText } }

/-- 44_i_class.md R230, 42_control_and_step.md R171, R173, R176; decisions D2, D7, D14, D23, log entries 7 and 8. -/
def Obligations.ImmediateClassRecordsAndUsesTableFields : Prop :=
  ∀ (m : Mnemonic) (s : State) (rd rs1 : Reg) (imm : Int) (rest : List Operand),
    m.row.opcode = 0x13 → InImmRange imm → ∃ t,
    exec (m.instr (regOp rd :: regOp rs1 :: .int imm :: rest)) s = .next t ∧
    WritesReg s t rd (alu m.row.funct3 m.row.funct7 (s.x rs1) imm).toInt ∧
    t.log = s.log ++ [{ pcBefore := s.pc, text := s.currentText }] ∧
    t.last = some {
      control := { regWrite := true, aluSrc := true, memWrite := false, memRead := false, memToReg := false,
                   branch := false, aluOp := 0b10 }
      a := some (s.reg rs1), b := some imm
      aluResult := some (alu m.row.funct3 m.row.funct7 (s.x rs1) imm).toInt, memDatum := none
      trace := { pcBefore := s.pc, text := s.currentText } }

/-- 42_control_and_step.md R171, R176; decisions D13, D14, D23, log entries 7 and 8. -/
def Obligations.LoadStoreRecords : Prop :=
  ∀ (s : State) (p rs1 : Reg) (third : Option (Int × List Operand)), InImmRange (offsetOr 0 third) →
    (∃ t, exec (.lw (offsetOps p rs1 third)) s = .next t ∧ t.last = some {
      control := { regWrite := true, aluSrc := true, memWrite := false, memRead := true, memToReg := true,
                   branch := false, aluOp := 0b00 }
      a := some (s.reg rs1), b := some (offsetOr 0 third), aluResult := some (s.x rs1 + offsetOr 0 third)
      memDatum := some (Memory.read s.mem (cellIndex (s.x rs1 + offsetOr 0 third)))
      trace := { pcBefore := s.pc, text := s.currentText } }) ∧
    (∃ t, exec (.sw (offsetOps p rs1 third)) s = .next t ∧ t.last = some {
      control := { regWrite := false, aluSrc := true, memWrite := true, memRead := false, memToReg := false,
                   branch := false, aluOp := 0b00 }
      a := some (s.reg rs1), b := some (offsetOr 0 third), aluResult := some (s.x rs1 + offsetOr 0 third)
      memDatum := some (s.reg p)
      trace := { pcBefore := s.pc, text := s.currentText } })

/-- 46_branch.md R250, R251, 42_control_and_step.md R171, R176; decisions D2, D13, D14, D23, log entries 7 and 8. -/
def Obligations.BranchRecordsAndUsesTableFunct3 : Prop :=
  ∀ (m : Mnemonic) (s : State) (rs1 rs2 : Reg) (third : Option (Int × List Operand)),
    m.row.opcode = 0x63 → InImmRange (offsetOr 1 third) →
    (conditionFormula m.row.funct3 (s.x rs1) (s.x rs2) → 0 ≤ (s.pc : Int) + offsetOr 1 third) → ∃ t,
    exec (m.instr (offsetOps rs1 rs2 third)) s = .next t ∧
    (conditionFormula m.row.funct3 (s.x rs1) (s.x rs2) → (t.pc : Int) = s.pc + offsetOr 1 third) ∧
    (¬ conditionFormula m.row.funct3 (s.x rs1) (s.x rs2) → t.pc = s.pc + 1) ∧
    t.last = some {
      control := { regWrite := false, aluSrc := false, memWrite := false, memRead := false, memToReg := false,
                   branch := true, aluOp := 0b01 }
      a := some (s.reg rs1), b := some (s.x rs2), aluResult := none, memDatum := none
      trace := { pcBefore := s.pc, text := s.currentText } }

/-- 42_control_and_step.md R181, 60_exceptions.md R301, R305; decisions D9 and D22, log entry 7. -/
def Obligations.InvalidOperandIsRaisedExactly : Prop :=
  ∀ (i : Instr) (s : State),
    (i.wellFormed = false → ∃ k, exec i s = .fault (.invalidOperand s.pc s.currentText k) ∧
      k < 3 ∧ FirstUnfit i.cls i.operands k) ∧
    (i.wellFormed = true → ∀ pc text k, exec i s ≠ .fault (.invalidOperand pc text k))

/-- 46_branch.md R252, 60_exceptions.md R302; decision D11, log entry 7. -/
def Obligations.BranchTargetNegativeIsRaisedExactly : Prop :=
  (∀ (m : Mnemonic) (s : State) (rs1 rs2 : Reg) (third : Option (Int × List Operand)),
    m.row.opcode = 0x63 → InImmRange (offsetOr 1 third) →
    conditionFormula m.row.funct3 (s.x rs1) (s.x rs2) → (s.pc : Int) + offsetOr 1 third < 0 →
    exec (m.instr (offsetOps rs1 rs2 third)) s =
      .fault (.branchTargetNegative s.pc s.currentText (s.pc + offsetOr 1 third))) ∧
  (∀ (i : Instr) (s : State) (pc : Nat) (text : Text) (target : Int),
    exec i s = .fault (.branchTargetNegative pc text target) →
    i.cls = .branch ∧ i.wellFormed = true ∧ target < 0 ∧ pc = s.pc ∧ text = s.currentText ∧
    ∃ rs1 rs2 off, branchOperands i.operands = .ok (rs1, rs2, off) ∧
      conditionFormula i.mnemonic.row.funct3 (s.x rs1) (s.x rs2) ∧ target = s.pc + off)

/-- 60_exceptions.md R306, R307; decision D9; log entry 11. -/
def Obligations.FaultedMachineIsStuck : Prop :=
  ∀ (s : State) (f : Fault), step s = .fault f →
    s.halted = false ∧ stepCommand s = ({ s with running := false }, .fault f) ∧
    stepCommand (stepCommand s).1 = ((stepCommand s).1, .fault f)

/-- 60_exceptions.md R303; decisions D9 and D11, log entry 7. -/
def Obligations.OnlyTwoFaultsAndNoRefusal : Prop :=
  ∀ s : State,
    (∃ t, step s = .next t) ∨
    (∃ text k, s.program[s.pc]? = some text ∧ k < 3 ∧ step s = .fault (.invalidOperand s.pc text k)) ∨
    (∃ text target, s.program[s.pc]? = some text ∧ target < 0 ∧
      step s = .fault (.branchTargetNegative s.pc text target))

/-- 10_state.md R41; decisions D12, D20, log entries 1 and 7. -/
def Obligations.ResetStateMeetsInvariant : Prop :=
  State.reset.Inv ∧ State.reset.program = Config.starterProgram ∧ State.reset.last = none ∧
    State.reset.running = false

/-- 10_state.md R22, R26, R28, R32, R33, 42_control_and_step.md R172, R174. -/
def Obligations.StepKeepsInvariant : Prop :=
  ∀ s t : State, s.Inv → step s = .next t → t.Inv

/-- 49_run_control.md R280, R281, R294 with 10_state.md R22, R26, R32, R33. A refused insertion is log entry 2. -/
def Obligations.HostCommandsKeepInvariant : Prop :=
  ∀ (cs : List Command) (s : State), s.Inv → (runSession cs s).Inv

/-- 10_state.md R22. -/
def Obligations.RegisterZeroIsPinned : Prop :=
  (∀ (s : State) (i : Reg) (v : Int), i ≠ 0 →
    (s.setReg i (wrap32 v)).x i = wrapInt v ∧ ∀ r, r ≠ i → (s.setReg i (wrap32 v)).x r = s.x r) ∧
  (∀ (s : State) (v : Int), s.setReg 0 (wrap32 v) = s) ∧
  (∀ s t : State, step s = .next t → t.regs[0] = s.regs[0]) ∧ (∀ s : State, s.x 0 = 0)

/-- 42_control_and_step.md R183, 45_load_store.md R241, R243, 10_state.md R33, 60_exceptions.md R310; decision D5, log entry 8. -/
def Obligations.StepChangesOneRegisterOrOneCell : Prop :=
  ∀ s t : State, Memory.wf s.mem = true → s.halted = false → step s = .next t →
    (∃ text, s.program[s.pc]? = some text ∧
      match (decode text).instr with
      | none => KeepsRegs s t ∧ KeepsMem s t
      | some i =>
        match i.cls with
        | .regReg | .regImm | .load => KeepsMem s t ∧ ∃ rd v, regAt i.operands 0 = some rd ∧ WritesReg s t rd v
        | .store => KeepsRegs s t ∧ ∃ rs2 rs1 off, memOperands i.operands = .ok (rs2, rs1, off) ∧
            WritesCell s t (cellIndex (s.x rs1 + off)) (s.reg rs2)
        | .branch | .noClass => KeepsRegs s t ∧ KeepsMem s t) ∧
    t.program = s.program ∧ t.running = s.running ∧ (∃ e, t.log = s.log ++ [e] ∧ e.pcBefore = s.pc)

/-- 46_branch.md R259. -/
def Obligations.OnlyBranchesTransferControl : Prop :=
  (∀ s t : State, s.halted = false → step s = .next t → t.pc ≠ s.pc + 1 →
    ∃ text i, s.program[s.pc]? = some text ∧ (decode text).instr = some i ∧ i.cls = .branch) ∧
  (∀ (i : Instr) (s t : State), exec i s = .next t → i.cls ≠ .branch → t.pc = s.pc + 1)

/-- 10_state.md R37, 60_exceptions.md R310, R313. -/
def Obligations.TraceStateIsInvisibleToPrograms : Prop :=
  ∀ s u : State, SameArchitecture s u →
    (∃ s' u', step s = .next s' ∧ step u = .next u' ∧ SameArchitecture s' u') ∨
    (∃ f, step s = .fault f ∧ step u = .fault f)

/-- 45_load_store.md R244. -/
def Obligations.StoreThenLoadReturnsTheWord : Prop :=
  ∀ (s : State) (rs2 base rd base' : Reg) (third third' : Option (Int × List Operand)),
    Memory.wf s.mem = true → InImmRange (offsetOr 0 third) → InImmRange (offsetOr 0 third') → rd ≠ 0 →
    cellIndex (s.x base' + offsetOr 0 third') = cellIndex (s.x base + offsetOr 0 third) →
    ∃ t u, exec (.sw (offsetOps rs2 base third)) s = .next t ∧ exec (.lw (offsetOps rd base' third')) t = .next u ∧
      u.x rd = s.x rs2

/-- 20_memory.md R50 to R52, R54; decision D5, log entry 8. -/
def Obligations.CellIndexIsAddressBits : Prop :=
  ∀ addr : Int,
    cellIndex addr = ((wrap32 addr).extractLsb' 2 8).toNat ∧ cellIndex addr < 256 ∧
    (∀ n : Int, cellIndex (addr + 1024 * n) = cellIndex addr) ∧ cellIndex (wrapInt addr) = cellIndex addr ∧
    cellIndex (addr - addr % 4) = cellIndex addr

/-- 41_alu.md R140 to R147; decisions D1, D2, D21, log entry 8. -/
def Obligations.AluMeetsIntegerFormulas : Prop :=
  ∀ (funct3 : BitVec 3) (funct7 : BitVec 7) (a b : Int), (alu funct3 funct7 a b).toInt = aluFormula funct3 funct7 a b

/-- 10_state.md R40, 70_reset_and_hazards.md R332. -/
def Obligations.ResetRestoresTheInitialSnapshot : Prop :=
  (∀ s : State, (applyCommand .reset s).1 = State.reset ∧
    (applyCommand .reset (applyCommand .reset s).1).1 = (applyCommand .reset s).1) ∧
  (∀ r, State.reset.x r = 0) ∧ (∀ k, Memory.read State.reset.mem k = 0) ∧
  State.reset.pc = 0 ∧ State.reset.log = []

/-- 49_run_control.md R288; decision D18, log entries 2 and 7. -/
def Obligations.InsertMovesLaterInstructionsUp : Prop :=
  ∀ (s : State) (text : Text),
    (∀ p : Nat, p ≤ s.program.length → s.program.length < Config.progMax →
      ∀ position, (position = some (p : Int) ∨ (position = none ∧ p = s.program.length)) → ∃ t,
        applyCommand (.insert text position) s = (t, .silent) ∧ t = { s with program := t.program } ∧
        t.program.length = s.program.length + 1 ∧ t.program[p]? = some text ∧
        (∀ j, j < p → t.program[j]? = s.program[j]?) ∧ (∀ j, p ≤ j → t.program[j + 1]? = s.program[j]?)) ∧
    (∀ p : Int, (p < 0 ∨ (s.program.length : Int) < p) → (applyCommand (.insert text (some p)) s).1 = s)

/-- 49_run_control.md R289, R291; decision D18, log entry 7. -/
def Obligations.RemoveMovesLaterInstructionsDown : Prop :=
  ∀ s : State,
    (∀ k : Nat, k < s.program.length → ∃ t,
      applyCommand (.remove k) s = (t, .silent) ∧ t = { s with program := t.program, pc := t.pc } ∧
      t.program.length + 1 = s.program.length ∧
      (∀ j, j < k → t.program[j]? = s.program[j]?) ∧ (∀ j, k ≤ j → t.program[j]? = s.program[j + 1]?) ∧
      (t.program.length < s.pc → t.pc = 0) ∧ (s.pc ≤ t.program.length → t.pc = s.pc)) ∧
    (∀ k : Int, (k < 0 ∨ (s.program.length : Int) ≤ k) → (applyCommand (.remove k) s).1 = s)

/-- 49_run_control.md R283 to R286; decision D19, log entry 7. The last clause is the model's choice where the step leaves the machine halted during a run: log entry 14. -/
def Obligations.RunStopAndTickControlTheRun : Prop :=
  ∀ s : State,
    (applyCommand .run s).1 = { s with running := true } ∧ (applyCommand .stop s).1 = { s with running := false } ∧
    (s.running = false → (applyCommand .tick s).1 = s) ∧
    (s.running = true → s.halted = true → applyCommand .tick s = ({ s with running := false }, .halted)) ∧
    (s.running = true → ∀ f, step s = .fault f →
      applyCommand .tick s = ({ s with running := false }, .fault f)) ∧
    (s.running = true → s.halted = false → ∀ t, step s = .next t →
      (applyCommand .tick s).1 = { t with running := !t.halted }) ∧
    (s.halted = false → ∀ t, step s = .next t →
      (applyCommand .step s).1 = t ∧ t.running = s.running)
end

