-- ==== Sys2Proof/Laws/Alu.lean ====
section
/-! SUPPORT. 32-bit words against the integer formulas of the spec. -/

namespace Sys2Proof.Machine

/-- A register's value coerces to the register's word. -/
@[simp] theorem wrap32_toInt (w : Word) : wrap32 w.toInt = w := BitVec.ofInt_toInt

/-- `wrap32` and `wrapInt` are the same coercion. -/
theorem toInt_wrap32 (v : Int) : (wrap32 v).toInt = wrapInt v := by
  simp [wrap32, wrapInt, BitVec.toInt_ofInt]

/-- `u32` of a word's signed value is its unsigned value. -/
theorem u32_toInt (w : Word) : u32 w.toInt = w.toNat := by
  have h := w.isLt
  unfold u32
  rw [BitVec.toInt_eq_toNat_cond]
  split <;> omega

theorem u32_wrapInt (v : Int) : u32 (wrapInt v) = u32 v := by
  have h : wrapInt v % 4294967296 = v % 4294967296 := Int.bmod_emod
  simp [u32, h]

theorem toNat_wrap32 (v : Int) : (wrap32 v).toNat = u32 v := by
  rw [← u32_toInt, toInt_wrap32, u32_wrapInt]

/-- The shift amount is the low five bits (41_alu.md R143). -/
theorem shiftAmount_eq (w : Word) : shiftAmount w = w.toNat % 32 := by
  simp [shiftAmount, BitVec.extractLsb'_toNat]

/-- Equal words have equal signed values, and conversely. -/
theorem word_eq_iff (p q : Word) : p = q ↔ p.toInt = q.toInt := BitVec.toInt_inj.symm

/-- The branch comparator against the integer conditions (46_branch.md R251). -/
theorem branchCondition_iff (funct3 : BitVec 3) (p q : Word) :
    branchCondition funct3 p q = true ↔ conditionFormula funct3 p.toInt q.toInt := by
  unfold branchCondition conditionFormula
  simp only [u32_toInt]
  generalize funct3.toNat = k
  split <;> simp [BitVec.slt, BitVec.ult, BitVec.toInt_inj]

/-- A register's value is its own coercion. -/
theorem wrapInt_x (s : State) (r : Reg) : wrapInt (s.x r) = s.x r := by
  simp [State.x, ← toInt_wrap32]

/-- An immediate in IMM_RANGE is its own coercion (30_encoding.md R84). -/
theorem wrapInt_imm {v : Int} (h : InImmRange v) : wrapInt v = v := by
  obtain ⟨h1, h2⟩ := h
  unfold Config.immMin at h1
  unfold Config.immMax at h2
  unfold wrapInt
  rw [Int.bmod_def]
  split <;> omega

end Sys2Proof.Machine
end

