-- ==== Sys2Proof/Laws/PerInstr.lean ====
section
/-! SUPPORT. The family TableEntry: what holds of every instruction as syntax, by constructor. -/

/-- The instruction is its mnemonic with its operands; the table finds its mnemonic under its own spelling; and the
class its opcode gives is its class (30_encoding.md R85, R86, 40_decoder.md R119). -/
def Sys2Proof.Laws.TableEntry.Statement (i : Sys2Proof.Instr) : Prop :=
  i.mnemonic.instr i.operands = i ∧
  Sys2Proof.lookupMnemonic i.mnemonic.row.name = some i.mnemonic ∧
  Sys2Proof.classOf i.mnemonic.row.opcode = i.cls

theorem Sys2Proof.Laws.TableEntry.add (ops : List Sys2Proof.Operand) :
    Sys2Proof.Laws.TableEntry.Statement (.add ops) :=
  ⟨rfl, rfl, rfl⟩

theorem Sys2Proof.Laws.TableEntry.sub (ops : List Sys2Proof.Operand) :
    Sys2Proof.Laws.TableEntry.Statement (.sub ops) :=
  ⟨rfl, rfl, rfl⟩

theorem Sys2Proof.Laws.TableEntry.sll (ops : List Sys2Proof.Operand) :
    Sys2Proof.Laws.TableEntry.Statement (.sll ops) :=
  ⟨rfl, rfl, rfl⟩

theorem Sys2Proof.Laws.TableEntry.slt (ops : List Sys2Proof.Operand) :
    Sys2Proof.Laws.TableEntry.Statement (.slt ops) :=
  ⟨rfl, rfl, rfl⟩

theorem Sys2Proof.Laws.TableEntry.sltu (ops : List Sys2Proof.Operand) :
    Sys2Proof.Laws.TableEntry.Statement (.sltu ops) :=
  ⟨rfl, rfl, rfl⟩

theorem Sys2Proof.Laws.TableEntry.xor (ops : List Sys2Proof.Operand) :
    Sys2Proof.Laws.TableEntry.Statement (.xor ops) :=
  ⟨rfl, rfl, rfl⟩

theorem Sys2Proof.Laws.TableEntry.srl (ops : List Sys2Proof.Operand) :
    Sys2Proof.Laws.TableEntry.Statement (.srl ops) :=
  ⟨rfl, rfl, rfl⟩

theorem Sys2Proof.Laws.TableEntry.sra (ops : List Sys2Proof.Operand) :
    Sys2Proof.Laws.TableEntry.Statement (.sra ops) :=
  ⟨rfl, rfl, rfl⟩

theorem Sys2Proof.Laws.TableEntry.or (ops : List Sys2Proof.Operand) :
    Sys2Proof.Laws.TableEntry.Statement (.or ops) :=
  ⟨rfl, rfl, rfl⟩

theorem Sys2Proof.Laws.TableEntry.and (ops : List Sys2Proof.Operand) :
    Sys2Proof.Laws.TableEntry.Statement (.and ops) :=
  ⟨rfl, rfl, rfl⟩

theorem Sys2Proof.Laws.TableEntry.addi (ops : List Sys2Proof.Operand) :
    Sys2Proof.Laws.TableEntry.Statement (.addi ops) :=
  ⟨rfl, rfl, rfl⟩

theorem Sys2Proof.Laws.TableEntry.slti (ops : List Sys2Proof.Operand) :
    Sys2Proof.Laws.TableEntry.Statement (.slti ops) :=
  ⟨rfl, rfl, rfl⟩

theorem Sys2Proof.Laws.TableEntry.sltiu (ops : List Sys2Proof.Operand) :
    Sys2Proof.Laws.TableEntry.Statement (.sltiu ops) :=
  ⟨rfl, rfl, rfl⟩

theorem Sys2Proof.Laws.TableEntry.xori (ops : List Sys2Proof.Operand) :
    Sys2Proof.Laws.TableEntry.Statement (.xori ops) :=
  ⟨rfl, rfl, rfl⟩

theorem Sys2Proof.Laws.TableEntry.ori (ops : List Sys2Proof.Operand) :
    Sys2Proof.Laws.TableEntry.Statement (.ori ops) :=
  ⟨rfl, rfl, rfl⟩

theorem Sys2Proof.Laws.TableEntry.andi (ops : List Sys2Proof.Operand) :
    Sys2Proof.Laws.TableEntry.Statement (.andi ops) :=
  ⟨rfl, rfl, rfl⟩

theorem Sys2Proof.Laws.TableEntry.slli (ops : List Sys2Proof.Operand) :
    Sys2Proof.Laws.TableEntry.Statement (.slli ops) :=
  ⟨rfl, rfl, rfl⟩

theorem Sys2Proof.Laws.TableEntry.srli (ops : List Sys2Proof.Operand) :
    Sys2Proof.Laws.TableEntry.Statement (.srli ops) :=
  ⟨rfl, rfl, rfl⟩

theorem Sys2Proof.Laws.TableEntry.srai (ops : List Sys2Proof.Operand) :
    Sys2Proof.Laws.TableEntry.Statement (.srai ops) :=
  ⟨rfl, rfl, rfl⟩

theorem Sys2Proof.Laws.TableEntry.lw (ops : List Sys2Proof.Operand) :
    Sys2Proof.Laws.TableEntry.Statement (.lw ops) :=
  ⟨rfl, rfl, rfl⟩

theorem Sys2Proof.Laws.TableEntry.sw (ops : List Sys2Proof.Operand) :
    Sys2Proof.Laws.TableEntry.Statement (.sw ops) :=
  ⟨rfl, rfl, rfl⟩

theorem Sys2Proof.Laws.TableEntry.beq (ops : List Sys2Proof.Operand) :
    Sys2Proof.Laws.TableEntry.Statement (.beq ops) :=
  ⟨rfl, rfl, rfl⟩

theorem Sys2Proof.Laws.TableEntry.bne (ops : List Sys2Proof.Operand) :
    Sys2Proof.Laws.TableEntry.Statement (.bne ops) :=
  ⟨rfl, rfl, rfl⟩

theorem Sys2Proof.Laws.TableEntry.blt (ops : List Sys2Proof.Operand) :
    Sys2Proof.Laws.TableEntry.Statement (.blt ops) :=
  ⟨rfl, rfl, rfl⟩

theorem Sys2Proof.Laws.TableEntry.bge (ops : List Sys2Proof.Operand) :
    Sys2Proof.Laws.TableEntry.Statement (.bge ops) :=
  ⟨rfl, rfl, rfl⟩

theorem Sys2Proof.Laws.TableEntry.bltu (ops : List Sys2Proof.Operand) :
    Sys2Proof.Laws.TableEntry.Statement (.bltu ops) :=
  ⟨rfl, rfl, rfl⟩

theorem Sys2Proof.Laws.TableEntry.bgeu (ops : List Sys2Proof.Operand) :
    Sys2Proof.Laws.TableEntry.Statement (.bgeu ops) :=
  ⟨rfl, rfl, rfl⟩
end

