-- ==== Sys2Proof/Laws/Decode.lean ====
section
/-! SUPPORT. The table lookup and the instruction as mnemonic and operands. -/

namespace Sys2Proof

@[simp] theorem Mnemonic.instr_mnemonic (m : Mnemonic) (ops : List Operand) : (m.instr ops).mnemonic = m := by
  cases m <;> rfl

@[simp] theorem Mnemonic.instr_operands (m : Mnemonic) (ops : List Operand) : (m.instr ops).operands = ops := by
  cases m <;> rfl

@[simp] theorem Instr.mnemonic_instr (i : Instr) : i.mnemonic.instr i.operands = i := by
  cases i <;> rfl

/-- The table finds every mnemonic under its own spelling. -/
theorem lookupMnemonic_name (m : Mnemonic) : lookupMnemonic m.row.name = some m := by
  cases m <;> decide

/-- Only a spelling of the table is found, and it is that mnemonic's. -/
theorem lookupMnemonic_some {name : Text} {m : Mnemonic} (h : lookupMnemonic name = some m) : m.row.name = name := by
  have := List.find?_some h
  simpa using this

theorem Mnemonic.mem_all (m : Mnemonic) : m ∈ Mnemonic.all := by
  cases m <;> decide

/-- A record of the Decoder has no instruction exactly when its class is `none` (47_unknown_and_system.md R270). -/
theorem decode_instr_none_iff (t : Text) : (decode t).instr = none ↔ (decode t).cls = .noClass := by
  have hc : ∀ m : Mnemonic, classOf m.row.opcode ≠ .noClass := by intro m; cases m <;> decide
  unfold decode
  dsimp only
  cases h : lookupMnemonic ((tokenize t).head?.getD []) with
  | none => simp [Record.instr, h, Record.cls, classOf]
  | some m => simpa [Record.instr, h, Record.cls] using hc m

end Sys2Proof
end

