-- ==== Sys2Proof/Laws/Memory.lean ====
section
/-! SUPPORT. The laws of data memory: a read after a write, and that a write keeps the canonical form. -/

namespace Sys2Proof.Machine

/-- Below the first index a canonical memory lists nothing. -/
theorem Memory.read_below {lo : Nat} {m : Memory} (h : Memory.wfFrom lo m = true) {k : Nat} (hk : k < lo) :
    Memory.read m k = Memory.unlisted := by
  induction m generalizing lo with
  | nil => rfl
  | cons p rest ih =>
    obtain ⟨j, v⟩ := p
    simp only [Memory.wfFrom, Bool.and_eq_true, decide_eq_true_eq] at h
    have hj : j ≠ k := by omega
    simp only [Memory.read, hj, if_false]
    exact ih h.2 (by omega)

/-- A canonical form from an index on is one from every lower index on. -/
theorem Memory.wfFrom_mono {lo lo' : Nat} {m : Memory} (h : Memory.wfFrom lo m = true) (hlo : lo' ≤ lo) :
    Memory.wfFrom lo' m = true := by
  cases m with
  | nil => rfl
  | cons p rest =>
    obtain ⟨j, v⟩ := p
    simp only [Memory.wfFrom, Bool.and_eq_true, decide_eq_true_eq] at h ⊢
    exact ⟨⟨⟨by omega, h.1.1.2⟩, h.1.2⟩, h.2⟩

/-- A write inside the 256 cells keeps the canonical form. -/
theorem Memory.write_wfFrom {lo : Nat} {m : Memory} (h : Memory.wfFrom lo m = true) {k : Nat} (hlo : lo ≤ k)
    (hk : k < Config.memWords) (v : Word) : Memory.wfFrom lo (Memory.write m k v) = true := by
  induction m generalizing lo with
  | nil =>
    by_cases hv : v = Memory.unlisted <;> simp [Memory.write, Memory.wfFrom, hv, hlo, hk]
  | cons p rest ih =>
    obtain ⟨j, u⟩ := p
    simp only [Memory.wfFrom, Bool.and_eq_true, decide_eq_true_eq] at h
    obtain ⟨⟨⟨h1, h2⟩, h3⟩, h4⟩ := h
    unfold Memory.write
    split
    · split
      · simp [Memory.wfFrom, h1, h2, h3, h4]
      · rename_i hkj hv
        simp [Memory.wfFrom, hlo, hk, hv, h2, h3, h4, Nat.succ_le_of_lt hkj]
    · split
      · rename_i hkj
        split
        · exact Memory.wfFrom_mono h4 (by omega)
        · rename_i hv
          subst hkj
          simp [Memory.wfFrom, hlo, hk, hv, h4]
      · rename_i hn he
        simp [Memory.wfFrom, h1, h2, h3, ih h4 (by omega)]

/-- Every memory operation keeps the canonical form. -/
theorem Memory.write_wf {m : Memory} (h : Memory.wf m = true) {k : Nat} (hk : k < Config.memWords) (v : Word) :
    Memory.wf (Memory.write m k v) = true := Memory.write_wfFrom h (Nat.zero_le k) hk v

/-- A read after a write, in a canonical memory. -/
theorem Memory.read_write_from {lo : Nat} {m : Memory} (h : Memory.wfFrom lo m = true) (k : Nat) (v : Word) (j : Nat) :
    Memory.read (Memory.write m k v) j = if j = k then v else Memory.read m j := by
  induction m generalizing lo with
  | nil =>
    by_cases hv : v = Memory.unlisted
    · simp [Memory.write, Memory.read, hv]
    · by_cases hj : k = j <;> simp [Memory.write, Memory.read, hv, hj, eq_comm]
  | cons p rest ih =>
    obtain ⟨i, u⟩ := p
    simp only [Memory.wfFrom, Bool.and_eq_true, decide_eq_true_eq] at h
    obtain ⟨-, h4⟩ := h
    unfold Memory.write
    split
    · rename_i hki
      split
      · rename_i hv
        split
        · rename_i hjk
          subst hjk
          have hne : i ≠ j := by omega
          simp [Memory.read, hne, hv, Memory.read_below h4 (by omega : j < i + 1)]
        · rfl
      · by_cases hj : j = k
        · subst hj; simp [Memory.read]
        · have hj' : k ≠ j := fun e => hj e.symm
          simp [Memory.read, hj, hj']
    · split
      · rename_i hki
        subst hki
        split
        · rename_i hv
          split
          · rename_i hjk
            subst hjk
            rw [hv]
            exact Memory.read_below h4 (by omega)
          · rename_i hjk
            have hj' : k ≠ j := fun e => hjk e.symm
            simp [Memory.read, hj']
        · by_cases hj : j = k
          · subst hj; simp [Memory.read]
          · have hj' : k ≠ j := fun e => hj e.symm
            simp [Memory.read, hj, hj']
      · rename_i hki hne
        by_cases hij : i = j
        · have hjk : j ≠ k := by omega
          simp [Memory.read, hij, hjk]
        · simp only [Memory.read, hij, if_false]
          exact ih h4

/-- The cell written reads as the word written, every other cell as before. -/
theorem Memory.read_write {m : Memory} (h : Memory.wf m = true) (k : Nat) (v : Word) (j : Nat) :
    Memory.read (Memory.write m k v) j = if j = k then v else Memory.read m j := Memory.read_write_from h k v j

/-- Every address selects one of the 256 cells (20_memory.md R50, R57). -/
theorem cellIndex_lt (a : Int) : cellIndex a < Config.memWords := by
  unfold cellIndex Config.memWords; omega

end Sys2Proof.Machine
end

