-- ==== Sys2Proof/Laws/Operands.lean ====
section
/-! SUPPORT. What the operand checks answer: on operands written out, and against `operandsFit`. -/

namespace Sys2Proof.Machine

theorem regAt_of_getElem {ops : List Operand} {k : Nat} {r : Reg} (h : ops[k]? = some (regOp r)) :
    regAt ops k = some r := by
  have hr : ((r.val : Int) < 32) := by have := r.isLt; omega
  simp [regAt, regOp, h, hr]

theorem inImmRange_iff (v : Int) : inImmRange v = true ↔ InImmRange v := by
  simp [inImmRange, InImmRange]

theorem immAt_of_getElem {ops : List Operand} {k : Nat} {v : Int} (h : ops[k]? = some (.int v))
    (hv : InImmRange v) : immAt ops k = some v := by
  simp [immAt, h, (inImmRange_iff v).2 hv]

/-- R-class operands written out. -/
theorem rOperands_regs (p q r : Reg) (rest : List Operand) :
    rOperands (regOp p :: regOp q :: regOp r :: rest) = .ok (p, q, r) := by
  rw [rOperands, regAt_of_getElem (r := p) rfl, regAt_of_getElem (r := q) rfl, regAt_of_getElem (r := r) rfl, checked]

/-- I-class operands written out. -/
theorem iOperands_regs (p q : Reg) {v : Int} (h : InImmRange v) (rest : List Operand) :
    iOperands (regOp p :: regOp q :: .int v :: rest) = .ok (p, q, v) := by
  rw [iOperands, regAt_of_getElem (r := p) rfl, regAt_of_getElem (r := q) rfl, immAt_of_getElem rfl h, checked]

theorem immAtOr_offsetOps (p q : Reg) (d : Int) (third : Option (Int × List Operand))
    (h : InImmRange (offsetOr d third)) : immAtOr (offsetOps p q third) 2 d = some (offsetOr d third) := by
  cases third with
  | none => rfl
  | some vr =>
    obtain ⟨v, rest⟩ := vr
    have h' : inImmRange v = true := (inImmRange_iff v).2 h
    simp [immAtOr, immAt, offsetOps, offsetOr, h']

theorem regAt_offsetOps (p q : Reg) (third : Option (Int × List Operand)) :
    regAt (offsetOps p q third) 0 = some p ∧ regAt (offsetOps p q third) 1 = some q :=
  ⟨regAt_of_getElem rfl, regAt_of_getElem rfl⟩

/-- Load and store operands written out; an absent offset is 0. -/
theorem memOperands_offsetOps (p q : Reg) (third : Option (Int × List Operand)) (h : InImmRange (offsetOr 0 third)) :
    memOperands (offsetOps p q third) = .ok (p, q, offsetOr 0 third) := by
  simp [memOperands, checked, regAt_offsetOps, Config.defaultMemOffset, immAtOr_offsetOps p q 0 third h]

/-- Branch operands written out; an absent offset is 1. -/
theorem branchOperands_offsetOps (p q : Reg) (third : Option (Int × List Operand))
    (h : InImmRange (offsetOr 1 third)) :
    branchOperands (offsetOps p q third) = .ok (p, q, offsetOr 1 third) := by
  simp [branchOperands, checked, regAt_offsetOps, Config.defaultBranchOffset, immAtOr_offsetOps p q 1 third h]

/-! ## The checks against `operandsFit` -/

theorem regAt_isSome (ops : List Operand) (k : Nat) : (regAt ops k).isSome = ops[k]?.any Operand.isReg := by
  unfold regAt
  rcases h : ops[k]? with _ | o
  · simp
  · cases o with
    | bad => simp [Operand.isReg]
    | int v =>
      simp only [Option.any_some, Operand.isReg]
      split
      · rename_i hv; simp [hv.1, show v ≤ 31 by omega]
      · rename_i hv; simp; omega

theorem immAt_isSome (ops : List Operand) (k : Nat) : (immAt ops k).isSome = ops[k]?.any Operand.isImm := by
  unfold immAt
  rcases h : ops[k]? with _ | o
  · simp
  · cases o with
    | bad => simp [Operand.isImm]
    | int v =>
      simp only [Option.any_some, Operand.isImm]
      change _ = inImmRange v
      split <;> rename_i hv <;> simp [hv]

theorem immAtOr_isSome (ops : List Operand) (k : Nat) (d : Int) :
    (immAtOr ops k d).isSome = ops[k]?.all Operand.isImm := by
  unfold immAtOr
  rcases h : ops[k]? with _ | o
  · simp
  · simpa [h] using immAt_isSome ops k

/-- `checked` succeeds exactly when each of the three values is there. -/
theorem checked_isOk {α : Type} (p q : Option Reg) (r : Option α) :
    (checked p q r).isOk = (p.isSome && q.isSome && r.isSome) := by
  cases p <;> cases q <;> cases r <;> rfl

/-- `checked` answers the values it was given. -/
theorem checked_ok {α : Type} {p q : Option Reg} {r : Option α} {a b : Reg} {c : α}
    (h : checked p q r = .ok (a, b, c)) : p = some a ∧ q = some b ∧ r = some c := by
  cases p <;> cases q <;> cases r <;> simp_all [checked]

/-- `checked` answers the first missing position. -/
theorem checked_error {α : Type} {p q : Option Reg} {r : Option α} {k : Nat} (h : checked p q r = .error k) :
    (k = 0 ∧ p = none) ∨ (k = 1 ∧ p.isSome ∧ q = none) ∨ (k = 2 ∧ p.isSome ∧ q.isSome ∧ r = none) := by
  cases p <;> cases q <;> cases r <;> simp_all [checked]

/-- Each class's check succeeds exactly on operands that fit the class (42_control_and_step.md R181). -/
theorem operands_isOk (ops : List Operand) :
    (rOperands ops).isOk = operandsFit .regReg ops ∧ (iOperands ops).isOk = operandsFit .regImm ops ∧
    (memOperands ops).isOk = operandsFit .load ops ∧ (memOperands ops).isOk = operandsFit .store ops ∧
    (branchOperands ops).isOk = operandsFit .branch ops := by
  simp [rOperands, iOperands, memOperands, branchOperands, checked_isOk, operandsFit, regAt_isSome, immAt_isSome,
    immAtOr_isSome]

end Sys2Proof.Machine
end

