-- ==== Sys2Proof/Laws/State.lean ====
section
/-! SUPPORT. One lemma per field per update of State, so that no proof unfolds a record update. -/

namespace Sys2Proof.Machine

/-! ## Registers -/

theorem State.setReg_zero (s : State) (v : Word) : s.setReg 0 v = s := by simp [State.setReg]

theorem State.setReg_of_ne (s : State) {i : Reg} (h : i ≠ 0) (v : Word) :
    s.setReg i v = { s with regs := s.regs.set i v } := by simp [State.setReg, h]

@[simp] theorem State.setReg_pc (s : State) (i : Reg) (v : Word) : (s.setReg i v).pc = s.pc := by
  unfold State.setReg; split <;> rfl

@[simp] theorem State.setReg_program (s : State) (i : Reg) (v : Word) : (s.setReg i v).program = s.program := by
  unfold State.setReg; split <;> rfl

@[simp] theorem State.setReg_mem (s : State) (i : Reg) (v : Word) : (s.setReg i v).mem = s.mem := by
  unfold State.setReg; split <;> rfl

@[simp] theorem State.setReg_last (s : State) (i : Reg) (v : Word) : (s.setReg i v).last = s.last := by
  unfold State.setReg; split <;> rfl

@[simp] theorem State.setReg_log (s : State) (i : Reg) (v : Word) : (s.setReg i v).log = s.log := by
  unfold State.setReg; split <;> rfl

@[simp] theorem State.setReg_running (s : State) (i : Reg) (v : Word) : (s.setReg i v).running = s.running := by
  unfold State.setReg; split <;> rfl

@[simp] theorem State.setReg_fetch (s : State) (i : Reg) (v : Word) : (s.setReg i v).fetch = s.fetch := by
  simp [State.fetch]

@[simp] theorem State.setReg_currentText (s : State) (i : Reg) (v : Word) :
    (s.setReg i v).currentText = s.currentText := by simp [State.currentText]

@[simp] theorem State.setReg_entry (s : State) (i : Reg) (v : Word) : (s.setReg i v).entry = s.entry := by
  simp [State.entry]

/-- Reading a register after a write: `x0` reads 0 and every other register but the written one is unchanged. -/
theorem State.setReg_reg (s : State) (i r : Reg) (v : Word) :
    (s.setReg i v).reg r = if r = i ∧ r ≠ 0 then v else s.reg r := by
  by_cases hi : i = 0
  · subst hi
    rw [State.setReg_zero]
    split
    · rename_i h; exact absurd h.1 h.2
    · rfl
  · rw [State.setReg_of_ne s hi]
    by_cases hr : r = 0
    · simp [State.reg, hr]
    · by_cases h : r = i
      · subst h; simp [State.reg, hr]
      · have h' : i.val ≠ r.val := fun e => h (Fin.ext e.symm)
        simp [State.reg, hr, h, Vector.getElem_set_ne, h']

/-- The slot of `x0` is never written. -/
theorem State.setReg_slot_zero (s : State) (i : Reg) (v : Word) : (s.setReg i v).regs[0] = s.regs[0] := by
  by_cases hi : i = 0
  · subst hi; rw [State.setReg_zero]
  · rw [State.setReg_of_ne s hi]
    have h' : i.val ≠ 0 := fun e => hi (Fin.ext e)
    simp [Vector.getElem_set_ne, h']

@[simp] theorem State.reg_zero (s : State) : s.reg 0 = 0 := by simp [State.reg]

@[simp] theorem State.x_zero (s : State) : s.x 0 = 0 := by simp [State.x]

/-! ## Memory -/

@[simp] theorem State.store_regs (s : State) (a : Int) (v : Word) : (s.store a v).regs = s.regs := rfl
@[simp] theorem State.store_pc (s : State) (a : Int) (v : Word) : (s.store a v).pc = s.pc := rfl
@[simp] theorem State.store_program (s : State) (a : Int) (v : Word) : (s.store a v).program = s.program := rfl
@[simp] theorem State.store_mem (s : State) (a : Int) (v : Word) :
    (s.store a v).mem = Memory.write s.mem (cellIndex a) v := rfl
@[simp] theorem State.store_last (s : State) (a : Int) (v : Word) : (s.store a v).last = s.last := rfl
@[simp] theorem State.store_log (s : State) (a : Int) (v : Word) : (s.store a v).log = s.log := rfl
@[simp] theorem State.store_running (s : State) (a : Int) (v : Word) : (s.store a v).running = s.running := rfl
@[simp] theorem State.store_reg (s : State) (a : Int) (v : Word) (r : Reg) : (s.store a v).reg r = s.reg r := rfl
@[simp] theorem State.store_currentText (s : State) (a : Int) (v : Word) :
    (s.store a v).currentText = s.currentText := rfl
@[simp] theorem State.store_entry (s : State) (a : Int) (v : Word) : (s.store a v).entry = s.entry := rfl

/-! ## Commit -/

section Commit

variable (s : State) (n : Nat) (c : Control) (a : Option Word) (b r : Option Int) (d : Option Word)

@[simp] theorem State.commit_regs : (s.commit n c a b r d).regs = s.regs := rfl
@[simp] theorem State.commit_pc : (s.commit n c a b r d).pc = n := rfl
@[simp] theorem State.commit_program : (s.commit n c a b r d).program = s.program := rfl
@[simp] theorem State.commit_mem : (s.commit n c a b r d).mem = s.mem := rfl
@[simp] theorem State.commit_log : (s.commit n c a b r d).log = s.log ++ [s.entry] := rfl
@[simp] theorem State.commit_running : (s.commit n c a b r d).running = s.running := rfl
@[simp] theorem State.commit_reg (i : Reg) : (s.commit n c a b r d).reg i = s.reg i := rfl
@[simp] theorem State.commit_x (i : Reg) : (s.commit n c a b r d).x i = s.x i := rfl
@[simp] theorem State.commit_last : (s.commit n c a b r d).last =
    some { control := c, a := a, b := b, aluResult := r, memDatum := d, trace := s.entry } := rfl

end Commit

section CommitBranch

variable (s : State) (p q : Reg) (n : Nat)

@[simp] theorem State.commitBranch_regs : (s.commitBranch p q n).regs = s.regs := rfl
@[simp] theorem State.commitBranch_pc : (s.commitBranch p q n).pc = n := rfl
@[simp] theorem State.commitBranch_program : (s.commitBranch p q n).program = s.program := rfl
@[simp] theorem State.commitBranch_mem : (s.commitBranch p q n).mem = s.mem := rfl
@[simp] theorem State.commitBranch_log : (s.commitBranch p q n).log = s.log ++ [s.entry] := rfl
@[simp] theorem State.commitBranch_running : (s.commitBranch p q n).running = s.running := rfl
@[simp] theorem State.commitBranch_reg (i : Reg) : (s.commitBranch p q n).reg i = s.reg i := rfl
@[simp] theorem State.commitBranch_x (i : Reg) : (s.commitBranch p q n).x i = s.x i := rfl
@[simp] theorem State.commitBranch_last : (s.commitBranch p q n).last =
    some { control := controlSignals .branch, a := some (s.reg p), b := some (s.x q), aluResult := none,
           memDatum := none, trace := s.entry } := rfl

@[simp] theorem State.fallThrough_regs : s.fallThrough.regs = s.regs := rfl
@[simp] theorem State.fallThrough_pc : s.fallThrough.pc = s.pc + 1 := rfl
@[simp] theorem State.fallThrough_program : s.fallThrough.program = s.program := rfl
@[simp] theorem State.fallThrough_mem : s.fallThrough.mem = s.mem := rfl
@[simp] theorem State.fallThrough_log : s.fallThrough.log = s.log ++ [s.entry] := rfl
@[simp] theorem State.fallThrough_running : s.fallThrough.running = s.running := rfl
@[simp] theorem State.fallThrough_reg (i : Reg) : s.fallThrough.reg i = s.reg i := rfl
@[simp] theorem State.fallThrough_x (i : Reg) : s.fallThrough.x i = s.x i := rfl
@[simp] theorem State.fallThrough_last : s.fallThrough.last =
    some { control := controlSignals .noClass, a := none, b := none, aluResult := none, memDatum := none,
           trace := s.entry } := rfl

end CommitBranch

@[simp] theorem State.entry_pcBefore (s : State) : s.entry.pcBefore = s.pc := rfl
@[simp] theorem State.entry_text (s : State) : s.entry.text = s.currentText := rfl

/-! ## Halting -/

/-- Halted is exactly: nothing to fetch (10_state.md R34). -/
theorem State.halted_iff_fetch (s : State) : s.halted = true ↔ s.fetch = none := by
  simp [State.halted, State.fetch]

/-! ## Reset -/

@[simp] theorem State.reset_pc : State.reset.pc = 0 := rfl
@[simp] theorem State.reset_mem : State.reset.mem = [] := rfl
@[simp] theorem State.reset_last : State.reset.last = none := rfl
@[simp] theorem State.reset_log : State.reset.log = [] := rfl
@[simp] theorem State.reset_running : State.reset.running = false := rfl
@[simp] theorem State.reset_program : State.reset.program = Config.starterProgram := rfl
@[simp] theorem State.reset_regs : State.reset.regs = Vector.replicate 32 0 := rfl

end Sys2Proof.Machine
end

