-- ==== Sys2Proof/Laws/Ops.lean ====
section
/-! SUPPORT. Everything the class steps, `exec` and `step` can do, said once each; proofs cite these and do not
unfold the model. -/

namespace Sys2Proof.Machine

/-! ## The class steps on checked operands -/

theorem runR_ok (f3 : BitVec 3) (f7 : BitVec 7) {ops : List Operand} (s : State) {rd rs1 rs2 : Reg}
    (h : rOperands ops = .ok (rd, rs1, rs2)) :
    runR f3 f7 ops s = .next ((s.setReg rd (alu f3 f7 (s.x rs1) (s.x rs2))).commit (s.pc + 1) (controlSignals .regReg)
      (some (s.reg rs1)) (some (s.x rs2)) (some (alu f3 f7 (s.x rs1) (s.x rs2)).toInt) none) := by
  simp [runR, h]

theorem runI_ok (f3 : BitVec 3) (f7 : BitVec 7) {ops : List Operand} (s : State) {rd rs1 : Reg} {imm : Int}
    (h : iOperands ops = .ok (rd, rs1, imm)) :
    runI f3 f7 ops s = .next ((s.setReg rd (alu f3 f7 (s.x rs1) imm)).commit (s.pc + 1) (controlSignals .regImm)
      (some (s.reg rs1)) (some imm) (some (alu f3 f7 (s.x rs1) imm).toInt) none) := by
  simp [runI, h]

theorem runLoad_ok {ops : List Operand} (s : State) {rd rs1 : Reg} {off : Int}
    (h : memOperands ops = .ok (rd, rs1, off)) :
    runLoad ops s = .next ((s.setReg rd (s.load (s.x rs1 + off))).commit (s.pc + 1) (controlSignals .load)
      (some (s.reg rs1)) (some off) (some (s.x rs1 + off)) (some (s.load (s.x rs1 + off)))) := by
  simp [runLoad, h]

theorem runStore_ok {ops : List Operand} (s : State) {rs2 rs1 : Reg} {off : Int}
    (h : memOperands ops = .ok (rs2, rs1, off)) :
    runStore ops s = .next ((s.store (s.x rs1 + off) (s.reg rs2)).commit (s.pc + 1) (controlSignals .store)
      (some (s.reg rs1)) (some off) (some (s.x rs1 + off)) (some (s.reg rs2))) := by
  simp [runStore, h]

theorem runBranch_notTaken (f3 : BitVec 3) {ops : List Operand} (s : State) {rs1 rs2 : Reg} {off : Int}
    (h : branchOperands ops = .ok (rs1, rs2, off)) (hc : branchCondition f3 (s.reg rs1) (s.reg rs2) = false) :
    runBranch f3 ops s = .next (s.commitBranch rs1 rs2 (s.pc + 1)) := by
  simp [runBranch, h, hc]

theorem runBranch_taken (f3 : BitVec 3) {ops : List Operand} (s : State) {rs1 rs2 : Reg} {off : Int}
    (h : branchOperands ops = .ok (rs1, rs2, off)) (hc : branchCondition f3 (s.reg rs1) (s.reg rs2) = true)
    (ht : 0 ≤ (s.pc : Int) + off) :
    runBranch f3 ops s = .next (s.commitBranch rs1 rs2 ((s.pc : Int) + off).toNat) := by
  simp [runBranch, h, hc, ht]

theorem runBranch_negative (f3 : BitVec 3) {ops : List Operand} (s : State) {rs1 rs2 : Reg} {off : Int}
    (h : branchOperands ops = .ok (rs1, rs2, off)) (hc : branchCondition f3 (s.reg rs1) (s.reg rs2) = true)
    (ht : (s.pc : Int) + off < 0) :
    runBranch f3 ops s = .fault (.branchTargetNegative s.pc s.currentText (s.pc + off)) := by
  simp [runBranch, h, hc, ht, raiseBranchTargetNegative]

/-! ## Everything an instruction can do -/

/-- The effect of a completed instruction of class `c` with operands `ops`: what it did to the state before the
commit, and the commit. It is a write of the register of operand 0, a write of the cell a store addresses, or
nothing (42_control_and_step.md R183). -/
inductive Effect (s : State) (c : Cls) (ops : List Operand) : State → Prop where
  | register (rd : Reg) (v : Word) (a : Option Word) (b r : Option Int) (d : Option Word)
      (hc : c = .regReg ∨ c = .regImm ∨ c = .load) (ho : regAt ops 0 = some rd) :
      Effect s c ops ((s.setReg rd v).commit (s.pc + 1) (controlSignals c) a b r d)
  | memory (rs2 rs1 : Reg) (off : Int) (a : Option Word) (b r : Option Int) (d : Option Word) (hc : c = .store)
      (ho : memOperands ops = .ok (rs2, rs1, off)) :
      Effect s c ops ((s.store (s.x rs1 + off) (s.reg rs2)).commit (s.pc + 1) (controlSignals c) a b r d)
  | branch (rs1 rs2 : Reg) (off : Int) (next : Nat) (hc : c = .branch)
      (ho : branchOperands ops = .ok (rs1, rs2, off)) : Effect s c ops (s.commitBranch rs1 rs2 next)
  | nothing (hc : c = .noClass) : Effect s c ops s.fallThrough

theorem runR_next {f3 : BitVec 3} {f7 : BitVec 7} {ops : List Operand} {s t : State}
    (h : runR f3 f7 ops s = .next t) : Effect s .regReg ops t := by
  rcases ho : rOperands ops with k | ⟨rd, rs1, rs2⟩
  · simp [runR, ho, raiseInvalidOperand] at h
  · rw [runR_ok f3 f7 s ho] at h
    cases h
    exact .register _ _ _ _ _ _ (.inl rfl) (checked_ok ho).1

theorem runI_next {f3 : BitVec 3} {f7 : BitVec 7} {ops : List Operand} {s t : State}
    (h : runI f3 f7 ops s = .next t) : Effect s .regImm ops t := by
  rcases ho : iOperands ops with k | ⟨rd, rs1, imm⟩
  · simp [runI, ho, raiseInvalidOperand] at h
  · rw [runI_ok f3 f7 s ho] at h
    cases h
    exact .register _ _ _ _ _ _ (.inr (.inl rfl)) (checked_ok ho).1

theorem runLoad_next {ops : List Operand} {s t : State} (h : runLoad ops s = .next t) : Effect s .load ops t := by
  rcases ho : memOperands ops with k | ⟨rd, rs1, off⟩
  · simp [runLoad, ho, raiseInvalidOperand] at h
  · rw [runLoad_ok s ho] at h
    cases h
    exact .register _ _ _ _ _ _ (.inr (.inr rfl)) (checked_ok ho).1

theorem runStore_next {ops : List Operand} {s t : State} (h : runStore ops s = .next t) : Effect s .store ops t := by
  rcases ho : memOperands ops with k | ⟨rs2, rs1, off⟩
  · simp [runStore, ho, raiseInvalidOperand] at h
  · rw [runStore_ok s ho] at h
    cases h
    exact .memory _ _ _ _ _ _ _ rfl ho

theorem runBranch_next {f3 : BitVec 3} {ops : List Operand} {s t : State}
    (h : runBranch f3 ops s = .next t) : Effect s .branch ops t := by
  rcases ho : branchOperands ops with k | ⟨rs1, rs2, off⟩
  · simp [runBranch, ho, raiseInvalidOperand] at h
  · cases hc : branchCondition f3 (s.reg rs1) (s.reg rs2) with
    | false =>
      rw [runBranch_notTaken f3 s ho hc] at h
      cases h
      exact .branch _ _ _ _ rfl ho
    | true =>
      by_cases ht : (s.pc : Int) + off < 0
      · rw [runBranch_negative f3 s ho hc ht] at h
        cases h
      · rw [runBranch_taken f3 s ho hc (by omega)] at h
        cases h
        exact .branch _ _ _ _ rfl ho

/-- Everything a branch that faults can be: an operand check that failed, or a taken branch to a negative target. -/
theorem runBranch_fault {f3 : BitVec 3} {ops : List Operand} {s : State} {f : Fault}
    (h : runBranch f3 ops s = .fault f) :
    (∃ k, branchOperands ops = .error k ∧ f = .invalidOperand s.pc s.currentText k) ∨
    (∃ rs1 rs2 off, branchOperands ops = .ok (rs1, rs2, off) ∧
      branchCondition f3 (s.reg rs1) (s.reg rs2) = true ∧ (s.pc : Int) + off < 0 ∧
      f = .branchTargetNegative s.pc s.currentText (s.pc + off)) := by
  rcases ho : branchOperands ops with k | ⟨rs1, rs2, off⟩
  · simp only [runBranch, ho, raiseInvalidOperand] at h
    cases h
    exact .inl ⟨k, rfl, rfl⟩
  · simp only [runBranch, ho] at h
    split at h
    · rename_i hc
      split at h
      · rename_i ht
        cases h
        exact .inr ⟨rs1, rs2, off, rfl, hc, ht, rfl⟩
      · cases h
    · cases h

/-- Every instruction is the common step of its class, with the funct3 and funct7 of its own table row. -/
theorem exec_eq_run (i : Instr) (s : State) :
    (i.cls = .regReg ∧ exec i s = runR i.mnemonic.row.funct3 i.mnemonic.row.funct7 i.operands s) ∨
    (i.cls = .regImm ∧ exec i s = runI i.mnemonic.row.funct3 i.mnemonic.row.funct7 i.operands s) ∨
    (i.cls = .load ∧ exec i s = runLoad i.operands s) ∨ (i.cls = .store ∧ exec i s = runStore i.operands s) ∨
    (i.cls = .branch ∧ exec i s = runBranch i.mnemonic.row.funct3 i.operands s) := by
  cases i
  case add | sub | sll | slt | sltu | xor | srl | sra | or | and => exact .inl ⟨rfl, rfl⟩
  case addi | slti | sltiu | xori | ori | andi | slli | srli | srai => exact .inr (.inl ⟨rfl, rfl⟩)
  case lw => exact .inr (.inr (.inl ⟨rfl, rfl⟩))
  case sw => exact .inr (.inr (.inr (.inl ⟨rfl, rfl⟩)))
  case beq | bne | blt | bge | bltu | bgeu => exact .inr (.inr (.inr (.inr ⟨rfl, rfl⟩)))

/-- An instruction that completes has an effect of its class. -/
theorem exec_next {i : Instr} {s t : State} (h : exec i s = .next t) : Effect s i.cls i.operands t := by
  cases i
  case add | sub | sll | slt | sltu | xor | srl | sra | or | and => exact runR_next h
  case addi | slti | sltiu | xori | ori | andi | slli | srli | srai => exact runI_next h
  case lw => exact runLoad_next h
  case sw => exact runStore_next h
  case beq | bne | blt | bge | bltu | bgeu => exact runBranch_next h

/-- Everything a completed step can be: nothing, when halted; an instruction's effect; the fall-through. -/
theorem step_next {s t : State} (h : step s = .next t) :
    (s.fetch = none ∧ t = s) ∨
    (∃ text i, s.fetch = some text ∧ (decode text).instr = some i ∧ exec i s = .next t ∧
      Effect s i.cls i.operands t) ∨
    (∃ text, s.fetch = some text ∧ (decode text).instr = none ∧ t = s.fallThrough) := by
  unfold step at h
  split at h
  · rename_i hf
    cases h
    exact .inl ⟨hf, rfl⟩
  · rename_i text hf
    split at h
    · rename_i i hi
      exact .inr (.inl ⟨text, i, hf, hi, h, exec_next h⟩)
    · rename_i hi
      cases h
      exact .inr (.inr ⟨text, hf, hi, rfl⟩)

/-- A completed step on a machine that is not halted is an effect of some class. -/
theorem step_effect {s t : State} (h : step s = .next t) (hh : s.fetch ≠ none) :
    ∃ c ops, Effect s c ops t := by
  rcases step_next h with ⟨hf, -⟩ | ⟨-, i, -, -, -, he⟩ | ⟨-, -, -, rfl⟩
  · exact absurd hf hh
  · exact ⟨_, _, he⟩
  · exact ⟨.noClass, [], .nothing rfl⟩

end Sys2Proof.Machine
end

