-- ==== Sys2Proof/Laws/RunControl.lean ====
section
/-! SUPPORT. What the step command does in each case, and what a query shows of each field. -/

namespace Sys2Proof.Machine

theorem stepCommand_halted {s : State} (h : s.halted = true) : stepCommand s = (s, .halted) := by
  simp [stepCommand, h]

theorem stepCommand_next {s t : State} (h : s.halted = false) (ht : step s = .next t) :
    stepCommand s = (t, .done t.last) := by
  simp [stepCommand, h, ht]

theorem stepCommand_fault {s : State} {f : Fault} (h : s.halted = false) (hf : step s = .fault f) :
    stepCommand s = ({ s with running := false }, .fault f) := by
  simp [stepCommand, h, hf]

@[simp] theorem State.snapshot_pc (s : State) : s.snapshot.pc = s.pc := rfl
@[simp] theorem State.snapshot_program (s : State) : s.snapshot.program = s.program := rfl
@[simp] theorem State.snapshot_last (s : State) : s.snapshot.last = s.last := rfl
@[simp] theorem State.snapshot_log (s : State) : s.snapshot.log = s.log := rfl
@[simp] theorem State.snapshot_running (s : State) : s.snapshot.running = s.running := rfl
@[simp] theorem State.snapshot_halted (s : State) : s.snapshot.halted = s.halted := rfl

/-- The query shows every register as an instruction reads it. -/
theorem State.snapshot_register (s : State) (r : Reg) : s.snapshot.registers[r.val]? = some (s.reg r) := by
  simp [State.snapshot]

/-- The query shows every cell of memory. -/
theorem State.snapshot_cell (s : State) {k : Nat} (h : k < Config.memWords) :
    s.snapshot.memory[k]? = some (Memory.read s.mem k) := by
  simp [State.snapshot, h]

end Sys2Proof.Machine
end

