-- ==== Sys2Proof/Tests/Slice0.lean ====
section
/-! SUPPORT. Tests of the model against the spec's own examples (95_test_vectors.md, whose section is named where
one is used), and a witness for every statement of Certificates/Slice0/Obligations.lean that has hypotheses. -/

namespace Sys2Proof.Tests

open Sys2Proof.Machine

/-! ## Helpers -/

/-- A register file with the given values, all others 0. -/
def regsOf (l : List (Reg × Int)) : Vector Word 32 :=
  l.foldl (fun v p => v.set p.1.val (BitVec.ofInt 32 p.2) p.1.isLt) (Vector.replicate 32 0)

/-- A state with these registers, cells, pc and program, everything else at its reset value. -/
def cpu (regs : List (Reg × Int)) (mem : Memory) (pc : Nat) (program : List String) : State :=
  { State.reset with regs := regsOf regs, mem := mem, pc := pc, program := program.map String.toList }

/-- The state with one text at pc 0. -/
def one (text : String) (regs : List (Reg × Int)) (mem : Memory) : State := cpu regs mem 0 [text]

/-- A register's value and the pc after one step. -/
def regAfter (s : State) (r : Reg) : Option (Int × Nat) := (nextState (step s)).map (fun t => (t.x r, t.pc))

/-- A cell's value and the pc after one step. -/
def cellAfter (s : State) (k : Nat) : Option (Int × Nat) :=
  (nextState (step s)).map (fun t => ((Memory.read t.mem k).toInt, t.pc))

/-- The pc after one step. -/
def pcAfter (s : State) : Option Nat := (nextState (step s)).map State.pc

/-- The instruction completes. -/
def completes (i : Instr) (s : State) : Bool := (nextState (exec i s)).isSome

/-- The position an InvalidOperand fault reports. -/
def faultPosition (s : State) : Option Nat :=
  match faultOf (step s) with
  | some (.invalidOperand _ _ k) => some k
  | _ => none

/-- The target a BranchTargetNegative fault reports. -/
def faultTarget (s : State) : Option Int :=
  match faultOf (step s) with
  | some (.branchTargetNegative _ _ v) => some v
  | _ => none

/-- The operands of a text. -/
def operandsOf (t : String) : List Operand := (decode t.toList).operands

/-! ## Well-formedness: one ill-formed term for each check, and the forms accepted -/

theorem test_wellFormed_refuses_register_class :
    (Instr.add []).wellFormed = false ∧ (Instr.add [.bad, .int 1, .int 2]).wellFormed = false ∧
    (Instr.add [.int 32, .int 1, .int 2]).wellFormed = false ∧
    (Instr.sub [.int 1, .int (-1), .int 2]).wellFormed = false ∧ (Instr.and [.int 1]).wellFormed = false ∧
    (Instr.xor [.int 1, .int 2]).wellFormed = false ∧ (Instr.or [.int 1, .int 2, .bad]).wellFormed = false := by decide

theorem test_wellFormed_refuses_immediate_class :
    (Instr.addi [.int 1, .int 0]).wellFormed = false ∧ (Instr.addi [.int 1, .int 0, .bad]).wellFormed = false ∧
    (Instr.slli [.int 1, .int 40, .int 0]).wellFormed = false ∧ (Instr.andi [.bad, .int 1, .int 0]).wellFormed = false ∧
    (Instr.addi [.int 1, .int 0, .int 2147483648]).wellFormed = false ∧
    (Instr.addi [.int 1, .int 0, .int (-2147483649)]).wellFormed = false := by decide

theorem test_wellFormed_refuses_offset_classes :
    (Instr.lw [.int 1]).wellFormed = false ∧ (Instr.sw [.int 32, .int 0, .int 0]).wellFormed = false ∧
    (Instr.lw [.int 1, .int 0, .bad]).wellFormed = false ∧
    (Instr.sw [.int 1, .int 0, .int 2147483648]).wellFormed = false ∧ (Instr.beq [.int 1]).wellFormed = false ∧
    (Instr.bne [.int 0, .int 0, .bad]).wellFormed = false ∧
    (Instr.bgeu [.int 0, .bad, .int 1]).wellFormed = false := by decide

theorem test_wellFormed_accepts :
    (Instr.add [.int 31, .int 0, .int 2, .bad]).wellFormed = true ∧
    (Instr.addi [.int 1, .int 0, .int (-2147483648)]).wellFormed = true ∧
    (Instr.lw [.int 3, .int 1]).wellFormed = true ∧ (Instr.bgeu [.int 1, .int 0]).wellFormed = true ∧
    (Instr.sw [.int 2, .int 1, .int 2147483647]).wellFormed = true := by decide

/-! ## Decoding texts (95_test_vectors.md 2.1) -/

theorem test_text_plain : (decode "addi x1, x0, 10".toList).instr = some (.addi [.int 1, .int 0, .int 10]) := by decide
theorem test_text_mixed_case_and_spaces : (decode "  SUB X4,  X2 , X1 ".toList).instr = some (.sub [.int 4, .int 2, .int 1]) := by decide
theorem test_text_no_commas : (decode "ADD X3 X1 X2".toList).instr = some (.add [.int 3, .int 1, .int 2]) := by decide
theorem test_text_srai : (decode "srai x3 x3 2".toList).instr = some (.srai [.int 3, .int 3, .int 2]) := by decide
theorem test_text_sra : (decode "sra x3, x3, x2".toList).instr = some (.sra [.int 3, .int 3, .int 2]) := by decide
theorem test_text_srli : (decode "srli x3, x3, 2".toList).instr = some (.srli [.int 3, .int 3, .int 2]) := by decide
theorem test_text_load_paren : (decode "lw x7, 0(x6)".toList).instr = some (.lw [.int 7, .int 6, .int 0]) := by decide
theorem test_text_store_paren : (decode "sw x5, -8(x2)".toList).instr = some (.sw [.int 5, .int 2, .int (-8)]) := by decide
theorem test_text_store_default : (decode "sw x5, x6".toList).instr = some (.sw [.int 5, .int 6]) := by decide
theorem test_text_branch : (decode "beq x1, x2, -3".toList).instr = some (.beq [.int 1, .int 2, .int (-3)]) := by decide
theorem test_text_branch_default : (decode "bgeu x1, x0".toList).instr = some (.bgeu [.int 1, .int 0]) := by decide
theorem test_text_plus_sign : (decode "addi x1, x0, +5".toList).instr = some (.addi [.int 1, .int 0, .int 5]) := by decide
theorem test_text_leading_zero : (decode "add x07, x0, x0".toList).instr = some (.add [.int 7, .int 0, .int 0]) := by decide
theorem test_text_deleted_commas : (decode "add x1,x2,x3".toList).instr = some (.add [.bad]) := by decide
theorem test_text_register_out_of_range : (decode "add x1, x40, x2".toList).instr = some (.add [.int 1, .int 40, .int 2]) := by decide
theorem test_text_hexadecimal : (decode "addi x1, x0, 0x10".toList).instr = some (.addi [.int 1, .int 0, .bad]) := by decide
theorem test_text_paren_in_register_class : (decode "add x1, 0(x2), x3".toList).instr = some (.add [.int 1, .bad, .int 3]) := by decide
theorem test_text_fourth_operand : (decode "add x1, x2, x3, junk".toList).instr = some (.add [.int 1, .int 2, .int 3, .bad]) := by decide
theorem test_text_register_as_literal : (decode "addi x1, x0, x5".toList).instr = some (.addi [.int 1, .int 0, .int 5]) := by decide

theorem test_text_fields :
    let r := decode "srai x3 x3 2".toList
    (r.mnemonic, r.opcode, r.funct3, r.funct7, r.cls) = ("srai".toList, 0x13, 5, 0x20, .regImm) := by decide

theorem test_text_unknown :
    (decode "jal x1, 8".toList) = ⟨"jal".toList, [.int 1, .int 8], 0, 0, 0⟩ ∧
    (decode "nop".toList) = ⟨"nop".toList, [], 0, 0, 0⟩ ∧ (decode "# comment".toList) = ⟨"#".toList, [.bad], 0, 0, 0⟩ ∧
    (decode "".toList) = ⟨[], [], 0, 0, 0⟩ ∧ (decode "".toList).instr = none := by decide

/-- The renderer writes the spec's own spelling. -/
theorem test_text_rendered :
    (Instr.add [.int 3, .int 1, .int 2]).text = "add x3, x1, x2".toList ∧
    (Instr.addi [.int 1, .int 0, .int (-10)]).text = "addi x1, x0, -10".toList ∧
    (Instr.sw [.int 5, .int 6]).text = "sw x5, x6".toList ∧ (Instr.beq []).text = "beq".toList := by decide

/-! ## Decoding words: each constructor's word written out field by field (30_encoding.md R93), and the same
word as 95_test_vectors.md 2.3 to 2.7 and Part 3 print it -/

theorem test_word_add :
    decodeWord (0b0000000#7 ++ 0b00010#5 ++ 0b00001#5 ++ 0b000#3 ++ 0b00011#5 ++ 0b0110011#7) =
      .instr (.add [.int 3, .int 1, .int 2]) ∧
    encode (.add [.int 3, .int 1, .int 2]) = some 0x002081B3 := by decide

theorem test_word_sub :
    decodeWord (0b0100000#7 ++ 0b00010#5 ++ 0b00001#5 ++ 0b000#3 ++ 0b00011#5 ++ 0b0110011#7) =
      .instr (.sub [.int 3, .int 1, .int 2]) ∧
    encode (.sub [.int 3, .int 1, .int 2]) = some 0x402081B3 := by decide

theorem test_word_sll :
    decodeWord (0b0000000#7 ++ 0b00010#5 ++ 0b00001#5 ++ 0b001#3 ++ 0b00011#5 ++ 0b0110011#7) =
      .instr (.sll [.int 3, .int 1, .int 2]) ∧
    encode (.sll [.int 3, .int 1, .int 2]) = some 0x002091B3 := by decide

theorem test_word_slt :
    decodeWord (0b0000000#7 ++ 0b00010#5 ++ 0b00001#5 ++ 0b010#3 ++ 0b00011#5 ++ 0b0110011#7) =
      .instr (.slt [.int 3, .int 1, .int 2]) ∧
    encode (.slt [.int 3, .int 1, .int 2]) = some 0x0020A1B3 := by decide

theorem test_word_sltu :
    decodeWord (0b0000000#7 ++ 0b00001#5 ++ 0b00010#5 ++ 0b011#3 ++ 0b00011#5 ++ 0b0110011#7) =
      .instr (.sltu [.int 3, .int 2, .int 1]) ∧
    encode (.sltu [.int 3, .int 2, .int 1]) = some 0x001131B3 := by decide

theorem test_word_xor :
    decodeWord (0b0000000#7 ++ 0b00001#5 ++ 0b00111#5 ++ 0b100#3 ++ 0b01000#5 ++ 0b0110011#7) =
      .instr (.xor [.int 8, .int 7, .int 1]) ∧
    encode (.xor [.int 8, .int 7, .int 1]) = some 0x0013C433 := by decide

theorem test_word_srl :
    decodeWord (0b0000000#7 ++ 0b00010#5 ++ 0b00001#5 ++ 0b101#3 ++ 0b00011#5 ++ 0b0110011#7) =
      .instr (.srl [.int 3, .int 1, .int 2]) ∧
    encode (.srl [.int 3, .int 1, .int 2]) = some 0x0020D1B3 := by decide

theorem test_word_sra :
    decodeWord (0b0100000#7 ++ 0b00001#5 ++ 0b00010#5 ++ 0b101#3 ++ 0b01100#5 ++ 0b0110011#7) =
      .instr (.sra [.int 12, .int 2, .int 1]) ∧
    encode (.sra [.int 12, .int 2, .int 1]) = some 0x40115633 := by decide

theorem test_word_or :
    decodeWord (0b0000000#7 ++ 0b00001#5 ++ 0b00111#5 ++ 0b110#3 ++ 0b01010#5 ++ 0b0110011#7) =
      .instr (.or [.int 10, .int 7, .int 1]) ∧
    encode (.or [.int 10, .int 7, .int 1]) = some 0x0013E533 := by decide

theorem test_word_and :
    decodeWord (0b0000000#7 ++ 0b00001#5 ++ 0b00111#5 ++ 0b111#3 ++ 0b01001#5 ++ 0b0110011#7) =
      .instr (.and [.int 9, .int 7, .int 1]) ∧
    encode (.and [.int 9, .int 7, .int 1]) = some 0x0013F4B3 := by decide

theorem test_word_addi :
    decodeWord (0b111111111111#12 ++ 0b00001#5 ++ 0b000#3 ++ 0b00001#5 ++ 0b0010011#7) =
      .instr (.addi [.int 1, .int 1, .int (-1)]) ∧
    encode (.addi [.int 1, .int 1, .int (-1)]) = some 0xFFF08093 := by decide

theorem test_word_slti :
    decodeWord (0b111111111111#12 ++ 0b00010#5 ++ 0b010#3 ++ 0b00001#5 ++ 0b0010011#7) =
      .instr (.slti [.int 1, .int 2, .int (-1)]) ∧
    encode (.slti [.int 1, .int 2, .int (-1)]) = some 0xFFF12093 := by decide

theorem test_word_sltiu :
    decodeWord (0b000000000001#12 ++ 0b00010#5 ++ 0b011#3 ++ 0b00001#5 ++ 0b0010011#7) =
      .instr (.sltiu [.int 1, .int 2, .int 1]) ∧
    encode (.sltiu [.int 1, .int 2, .int 1]) = some 0x00113093 := by decide

theorem test_word_xori :
    decodeWord (0b111111111111#12 ++ 0b00010#5 ++ 0b100#3 ++ 0b00001#5 ++ 0b0010011#7) =
      .instr (.xori [.int 1, .int 2, .int (-1)]) ∧
    encode (.xori [.int 1, .int 2, .int (-1)]) = some 0xFFF14093 := by decide

theorem test_word_ori :
    decodeWord (0b010101010101#12 ++ 0b00000#5 ++ 0b110#3 ++ 0b00111#5 ++ 0b0010011#7) =
      .instr (.ori [.int 7, .int 0, .int 1365]) ∧
    encode (.ori [.int 7, .int 0, .int 1365]) = some 0x55506393 := by decide

theorem test_word_andi :
    decodeWord (0b011100000000#12 ++ 0b00101#5 ++ 0b111#3 ++ 0b00110#5 ++ 0b0010011#7) =
      .instr (.andi [.int 6, .int 5, .int 1792]) ∧
    encode (.andi [.int 6, .int 5, .int 1792]) = some 0x7002F313 := by decide

theorem test_word_slli :
    decodeWord (0b0000000#7 ++ 0b11111#5 ++ 0b00010#5 ++ 0b001#3 ++ 0b00001#5 ++ 0b0010011#7) =
      .instr (.slli [.int 1, .int 2, .int 31]) ∧
    encode (.slli [.int 1, .int 2, .int 31]) = some 0x01F11093 := by decide

theorem test_word_srli :
    decodeWord (0b0000000#7 ++ 0b00100#5 ++ 0b00010#5 ++ 0b101#3 ++ 0b00001#5 ++ 0b0010011#7) =
      .instr (.srli [.int 1, .int 2, .int 4]) ∧
    encode (.srli [.int 1, .int 2, .int 4]) = some 0x00415093 := by decide

theorem test_word_srai :
    decodeWord (0b0100000#7 ++ 0b11111#5 ++ 0b00010#5 ++ 0b101#3 ++ 0b00001#5 ++ 0b0010011#7) =
      .instr (.srai [.int 1, .int 2, .int 31]) ∧
    encode (.srai [.int 1, .int 2, .int 31]) = some 0x41F15093 := by decide

theorem test_word_lw :
    decodeWord (0b111111111100#12 ++ 0b00001#5 ++ 0b010#3 ++ 0b00011#5 ++ 0b0000011#7) =
      .instr (.lw [.int 3, .int 1, .int (-4)]) ∧
    encode (.lw [.int 3, .int 1, .int (-4)]) = some 0xFFC0A183 := by decide

theorem test_word_sw :
    decodeWord (0b1111111#7 ++ 0b00101#5 ++ 0b00110#5 ++ 0b010#3 ++ 0b11100#5 ++ 0b0100011#7) =
      .instr (.sw [.int 5, .int 6, .int (-4)]) ∧
    encode (.sw [.int 5, .int 6, .int (-4)]) = some 0xFE532E23 := by decide

theorem test_word_beq :
    decodeWord (0b0#1 ++ 0b001100#6 ++ 0b00000#5 ++ 0b00000#5 ++ 0b000#3 ++ 0b1000#4 ++ 0b0#1 ++ 0b1100011#7) =
      .instr (.beq [.int 0, .int 0, .int 100]) ∧
    encode (.beq [.int 0, .int 0, .int 100]) = some 0x18000863 := by decide

theorem test_word_bne :
    decodeWord (0b1#1 ++ 0b111111#6 ++ 0b00010#5 ++ 0b00001#5 ++ 0b001#3 ++ 0b1010#4 ++ 0b1#1 ++ 0b1100011#7) =
      .instr (.bne [.int 1, .int 2, .int (-3)]) ∧
    encode (.bne [.int 1, .int 2, .int (-3)]) = some 0xFE209AE3 := by decide

theorem test_word_blt :
    decodeWord (0b0#1 ++ 0b000000#6 ++ 0b00010#5 ++ 0b00001#5 ++ 0b100#3 ++ 0b1010#4 ++ 0b0#1 ++ 0b1100011#7) =
      .instr (.blt [.int 1, .int 2, .int 5]) ∧
    encode (.blt [.int 1, .int 2, .int 5]) = some 0x0020CA63 := by decide

theorem test_word_bge :
    decodeWord (0b0#1 ++ 0b000000#6 ++ 0b00011#5 ++ 0b00000#5 ++ 0b101#3 ++ 0b0100#4 ++ 0b0#1 ++ 0b1100011#7) =
      .instr (.bge [.int 0, .int 3, .int 2]) ∧
    encode (.bge [.int 0, .int 3, .int 2]) = some 0x00305463 := by decide

theorem test_word_bltu :
    decodeWord (0b0#1 ++ 0b000000#6 ++ 0b00000#5 ++ 0b00001#5 ++ 0b110#3 ++ 0b1010#4 ++ 0b0#1 ++ 0b1100011#7) =
      .instr (.bltu [.int 1, .int 0, .int 5]) ∧
    encode (.bltu [.int 1, .int 0, .int 5]) = some 0x0000EA63 := by decide

theorem test_word_bgeu :
    decodeWord (0b0#1 ++ 0b000000#6 ++ 0b00000#5 ++ 0b00000#5 ++ 0b111#3 ++ 0b0010#4 ++ 0b0#1 ++ 0b1100011#7) =
      .instr (.bgeu [.int 0, .int 0, .int 1]) ∧
    encode (.bgeu [.int 0, .int 0, .int 1]) = some 0x00007263 := by decide

/-- 95_test_vectors.md 2.11, and words that stand for no known mnemonic (30_encoding.md R96). -/
theorem test_word_others :
    decodeWord 0xFE009CE3 = .instr (.bne [.int 1, .int 0, .int (-2)]) ∧ decodeWord 0x00000073 = .unknown ∧
    decodeWord 0x00208163 = .noInstruction ∧ decodeWord 0 = .unknown := by decide

/-- Forms with no word (95_test_vectors.md 2.4, 2.6, 2.7) and the written-out default (30_encoding.md R95). -/
theorem test_word_domain :
    encode (.addi [.int 5, .int 0, .int 100000]) = none ∧ encode (.slli [.int 1, .int 2, .int 32]) = none ∧
    encode (.beq [.int 0, .int 0, .int 1000000]) = none ∧ encode (.lw [.int 3, .int 1]) = some 0x0000A183 ∧
    encode (.bne [.int 0, .int 0]) = some 0x00001263 ∧ encode (.add [.int 1, .int 40, .int 2]) = none := by decide

theorem test_table_word : decodeTableWord 32 0x40115633 = some (.sra [.int 12, .int 2, .int 1]) := by decide

/-! ## One step of each instruction (95_test_vectors.md 2.3, 2.4, 2.6, 2.7) -/

theorem test_step_add : regAfter (one "add x3, x1, x2" [(1, 2147483647), (2, 1)] []) 3 = some (-2147483648, 1) := by decide
theorem test_step_add_literal : regAfter (one "add x1, x2, 3" [(2, 5), (3, 7)] []) 1 = some (12, 1) := by decide
theorem test_step_sub : regAfter (one "sub x3, x1, x2" [(1, -2147483648), (2, 1)] []) 3 = some (2147483647, 1) := by decide
theorem test_step_sub_same : regAfter (one "sub x1, x1, x1" [(1, 12345)] []) 1 = some (0, 1) := by decide
theorem test_step_sll : regAfter (one "sll x3, x1, x2" [(1, 1), (2, 63)] []) 3 = some (-2147483648, 1) := by decide
theorem test_step_slt : regAfter (one "slt x3, x1, x2" [(1, -1), (2, 1)] []) 3 = some (1, 1) := by decide
theorem test_step_sltu : regAfter (one "sltu x3, x1, x2" [(1, -1), (2, 1)] []) 3 = some (0, 1) := by decide
theorem test_step_sltu_other : regAfter (one "sltu x3, x2, x1" [(1, -1), (2, 1)] []) 3 = some (1, 1) := by decide
theorem test_step_xor : regAfter (one "xor x3, x1, x1" [(1, 77)] []) 3 = some (0, 1) := by decide
theorem test_step_srl : regAfter (one "srl x3, x1, x2" [(1, -1), (2, 28)] []) 3 = some (15, 1) := by decide
theorem test_step_sra : regAfter (one "sra x3, x1, x2" [(1, -1073741824), (2, 30)] []) 3 = some (-1, 1) := by decide
theorem test_step_or : regAfter (one "or x3, x1, x2" [(1, 240), (2, 15)] []) 3 = some (255, 1) := by decide
theorem test_step_and : regAfter (one "and x3, x1, x2" [(1, -16), (2, 255)] []) 3 = some (240, 1) := by decide
theorem test_step_addi : regAfter (one "addi x1, x1, 1" [(1, 2147483647)] []) 1 = some (-2147483648, 1) := by decide
theorem test_step_addi_minimum : regAfter (one "addi x1, x0, -2147483648" [] []) 1 = some (-2147483648, 1) := by decide
theorem test_step_slti : regAfter (one "slti x1, x2, -1" [(2, -1)] []) 1 = some (0, 1) := by decide
theorem test_step_slti_zero : regAfter (one "slti x1, x2, 0" [(2, -1)] []) 1 = some (1, 1) := by decide
theorem test_step_sltiu : regAfter (one "sltiu x1, x2, -1" [(2, 5)] []) 1 = some (1, 1) := by decide
theorem test_step_sltiu_other : regAfter (one "sltiu x1, x2, 1" [(2, -1)] []) 1 = some (0, 1) := by decide
theorem test_step_xori : regAfter (one "xori x1, x2, -1" [(2, 1431655765)] []) 1 = some (-1431655766, 1) := by decide
theorem test_step_ori : regAfter (one "ori x1, x2, 256" [(2, 255)] []) 1 = some (511, 1) := by decide
theorem test_step_andi : regAfter (one "andi x1, x2, 255" [(2, -1)] []) 1 = some (255, 1) := by decide
theorem test_step_slli : regAfter (one "slli x1, x2, 31" [(2, 3)] []) 1 = some (-2147483648, 1) := by decide
theorem test_step_slli_masked : regAfter (one "slli x1, x2, -1" [(2, 1)] []) 1 = some (-2147483648, 1) := by decide
theorem test_step_srli : regAfter (one "srli x1, x2, 4" [(2, -16)] []) 1 = some (268435455, 1) := by decide
theorem test_step_srai : regAfter (one "srai x1, x2, 36" [(2, -16)] []) 1 = some (-1, 1) := by decide
theorem test_step_srai_positive : regAfter (one "srai x1, x2, 31" [(2, 2147483647)] []) 1 = some (0, 1) := by decide

theorem test_step_lw : regAfter (one "lw x3, x1, 5" [(1, 2147483647)] [(1, 21)]) 3 = some (21, 1) := by decide
theorem test_step_lw_same_register : regAfter (one "lw x1, x1, 0" [(1, 8)] [(2, 42)]) 1 = some (42, 1) := by decide
theorem test_step_sw : cellAfter (one "sw x2, x1, 1023" [(2, -1)] []) 255 = some (-1, 1) := by decide
theorem test_step_sw_zero_removes :
    (nextState (step (one "sw x0, x1, 4" [] [(1, 9)]))).map State.mem = some [] := by decide

theorem test_step_beq : pcAfter (cpu [(1, 7), (2, 7)] [] 3 ["", "", "", "beq x1, x2, 2"]) = some 5 := by decide
theorem test_step_beq_not_taken : pcAfter (cpu [(1, 7), (2, 8)] [] 3 ["", "", "", "beq x1, x2, 2"]) = some 4 := by decide
theorem test_step_bne : pcAfter (cpu [(1, 7), (2, 8)] [] 3 ["", "", "", "bne x1, x2, -3"]) = some 0 := by decide
theorem test_step_bne_not_taken : pcAfter (cpu [(1, 7), (2, 7)] [] 3 ["", "", "", "bne x1, x2, -4"]) = some 4 := by decide
theorem test_step_blt : pcAfter (cpu [(1, -1), (2, 0)] [] 1 ["", "blt x1, x2, 5"]) = some 6 := by decide
theorem test_step_blt_equal : pcAfter (cpu [(1, 4), (2, 4)] [] 1 ["", "blt x1, x2, 5"]) = some 2 := by decide
theorem test_step_bge : pcAfter (cpu [(1, -1), (2, 0)] [] 1 ["", "bge x1, x2, 5"]) = some 2 := by decide
theorem test_step_bge_equal : pcAfter (cpu [(1, 4), (2, 4)] [] 1 ["", "bge x1, x2, 5"]) = some 6 := by decide
theorem test_step_bltu : pcAfter (cpu [(1, -1), (2, 0)] [] 1 ["", "bltu x1, x2, 5"]) = some 2 := by decide
theorem test_step_bltu_taken : pcAfter (cpu [(1, -1), (2, 1)] [] 1 ["", "bltu x2, x1, 5"]) = some 6 := by decide
theorem test_step_bgeu : pcAfter (cpu [(1, -1), (2, 0)] [] 1 ["", "bgeu x1, x2, 5"]) = some 6 := by decide
theorem test_step_bgeu_default : pcAfter (cpu [] [] 2 ["", "", "bgeu x0, x0"]) = some 3 := by decide

/-- 95_test_vectors.md S1: `x0` stays 0 and the StepRecord still holds the result. -/
theorem test_step_x0 :
    (nextState (step (one "addi x0, x0, 7" [] []))).map (fun t => (t.x 0, t.regs[0], t.last.map StepRecord.aluResult)) =
      some (0, 0, some (some 7)) := by decide

/-- 95_test_vectors.md 2.6: the address of a load is recorded unwrapped. -/
theorem test_step_record :
    (nextState (step (one "lw x3, x1, 2147483647" [(1, 2147483647)] [(255, 11)]))).bind State.last =
      some {
        control := { regWrite := true, aluSrc := true, memWrite := false, memRead := true, memToReg := true,
                     branch := false, aluOp := 0b00 }
        a := some 2147483647, b := some 2147483647, aluResult := some 4294967294, memDatum := some 11
        trace := { pcBefore := 0, text := "lw x3, x1, 2147483647".toList } } := by decide

/-- 95_test_vectors.md 2.8: an unknown mnemonic changes nothing but pc, log and last. -/
theorem test_step_unknown :
    nextState (step (one "foo x99, bar" [(7, 5)] [(1, 2)])) =
      some { one "foo x99, bar" [(7, 5)] [(1, 2)] with
        pc := 1, log := [⟨0, "foo x99, bar".toList⟩]
        last := some ⟨⟨false, false, false, false, false, false, 0⟩, none, none, none, none,
          ⟨0, "foo x99, bar".toList⟩⟩ } := by decide

/-- 95_test_vectors.md 2.9. -/
theorem test_fault_positions :
    faultPosition (one "add x1, x40, x2" [] []) = some 1 ∧ faultPosition (one "add x1,x2,x3" [] []) = some 0 ∧
    faultPosition (one "addi x1, x0" [] []) = some 2 ∧ faultPosition (one "addi x1, x0, 2147483648" [] []) = some 2 ∧
    faultPosition (one "lw x1" [] []) = some 1 ∧ faultPosition (one "bne x0, x0, bad" [] []) = some 2 ∧
    faultPosition (one "sw x32, x0, 0" [] []) = some 0 ∧ faultPosition (one "add x1, x40, x50" [] []) = some 1 := by
  decide

theorem test_fault_target : faultTarget (one "beq x0, x0, -1" [] []) = some (-1) := by decide

/-- 95_test_vectors.md 2.2, corners of the ALU function. -/
theorem test_alu :
    alu 0 0x20 0 (-2147483648) = 0x80000000 ∧ alu 1 0 3 (-1) = 0x80000000 ∧ alu 5 0 (-8) 0 = -8 ∧
    alu 5 0x20 (-7) 1 = -4 ∧ alu 5 0 (-1) 32 = -1 ∧ alu 3 0 (-1) 1 = 0 ∧ alu 2 0 (-1) 1 = 1 := by decide

/-- 95_test_vectors.md 2.5. -/
theorem test_cellIndex :
    [0, 3, 7, 100, 1020, 1023, 1024, 2048, 4294967294, -1, -4, -1024, 2147483647, -2147483648, 2147483652].map cellIndex =
      [0, 0, 1, 25, 255, 255, 0, 0, 255, 255, 255, 0, 255, 0, 1] := by decide

theorem test_memory_write :
    Memory.write (Memory.write (Memory.write [] 255 7) 3 9) 100 5 = [(3, 9), (100, 5), (255, 7)] ∧
    Memory.write [(3, 9), (100, 5)] 3 0 = [(100, 5)] ∧ Memory.wf [(256, 1)] = false ∧
    Memory.wf [(1, 1), (1, 2)] = false ∧ Memory.wf [(1, 0)] = false := by decide

/-! ## Host commands (95_test_vectors.md 2.10) -/

/-- A state with this pc and program. -/
def at' (pc : Nat) (program : List String) : State := cpu [] [] pc program

/-- The state with a run in flight. -/
def inRun (s : State) : State := { s with running := true }

theorem test_command_step_halted :
    applyCommand .step (at' 3 ["a", "b", "c"]) = (at' 3 ["a", "b", "c"], .halted) ∧
    applyCommand .step (at' 0 []) = (at' 0 [], .halted) := by decide

theorem test_command_insert_position :
    insertPosition 2 none = some 2 ∧ insertPosition 2 (some 0) = some 0 ∧ insertPosition 2 (some 2) = some 2 ∧
    insertPosition 2 (some 5) = none ∧ insertPosition 2 (some (-1)) = none := by decide

theorem test_command_insert_out_of_range :
    applyCommand (.insert ['z'] (some 5)) (at' 1 ["a", "b"]) = (at' 1 ["a", "b"], .silent) := by decide

theorem test_command_remove :
    (applyCommand (.remove 0) (at' 1 ["a", "b", "c"])).1 = at' 1 ["b", "c"] ∧
    (applyCommand (.remove 0) (at' 2 ["a", "b", "c"])).1 = at' 2 ["b", "c"] ∧
    (applyCommand (.remove 1) (at' 3 ["a", "b", "c"])).1 = at' 0 ["a", "c"] ∧
    (applyCommand (.remove 2) (at' 1 ["a", "b"])).1 = at' 1 ["a", "b"] := by decide

theorem test_command_tick_ends_run :
    ((runSession [.run, .tick] (at' 0 ["addi x1, x0, 10"])).running,
      (runSession [.run, .tick] (at' 0 ["addi x1, x0, 10"])).x 1) = (false, 10) := by decide

theorem test_command_tick_fault :
    runSession [.run, .tick] (at' 0 ["add x1"]) = at' 0 ["add x1"] := by decide

/-- A step by hand that ends the program leaves the run to the next tick (log entry 14); the host reads both. -/
theorem test_command_step_ends_program_in_run :
    (((runSession [.step] (inRun (at' 0 ["nop"]))).snapshot.running, (runSession [.step] (inRun (at' 0 ["nop"]))).snapshot.halted),
      (runSession [.step, .tick] (inRun (at' 0 ["nop"]))).snapshot.running) = ((true, true), false) := by decide

/-! ## Witnesses of the statements' hypotheses, by statement -/

theorem witness_EncodedWordDecodesBack :
    encode (.sw [.int 31, .int 0, .int (-2048)]) = some 0x81F02023 ∧ (encode (.addi [.int 1, .int 0, .int 2047])).isSome = true ∧
    (encode (.addi [.int 1, .int 0, .int 2048])).isSome = false ∧ (encode (.srai [.int 1, .int 2, .int 31])).isSome = true ∧
    (encode (.srai [.int 1, .int 2, .int (-1)])).isSome = false ∧ (encode (.beq [.int 1, .int 2, .int (-1024)])).isSome = true ∧
    (encode (.beq [.int 1, .int 2, .int 1023])).isSome = true ∧ (encode (.beq [.int 1, .int 2, .int 1024])).isSome = false ∧
    (encode (.bgeu [.int 31, .int 0])).isSome = true ∧ (encode (.lw [.int 31, .int 0])).isSome = true := by decide

theorem witness_TableRowsArePairwiseDisjoint :
    Mnemonic.sra.matchesWord 0x40115633 = true ∧ Mnemonic.srl.matchesWord 0x40115633 = false := by decide

theorem witness_DecodedFieldsDependOnMnemonicOnly :
    (tokenize "  SUB junk".toList).head? = some Mnemonic.sub.row.name ∧
    (∀ m : Mnemonic, (tokenize "jal x1, 8".toList).head? ≠ some m.row.name) ∧
    (∀ m : Mnemonic, (tokenize [] ).head? ≠ some m.row.name) :=
  ⟨by decide, by intro m; cases m <;> decide, by intro m; cases m <;> decide⟩

theorem witness_UpperCaseTextDecodesAlike :
    (∀ c ∈ ['l', 'w', ' ', 'x', '1'], c.toNat < 128) ∧ ['l', 'w', ' ', 'x', '1'].map upperAscii = "LW X1".toList :=
  ⟨by simp, by decide⟩

theorem witness_StepExecutesDecodedInstruction :
    (at' 1 ["", "add x3, x1, x2"]).program[(at' 1 ["", "add x3, x1, x2"]).pc]? = some "add x3, x1, x2".toList ∧
    (decode "add x3, x1, x2".toList).instr = some (.add [.int 3, .int 1, .int 2]) := by decide

theorem witness_UnknownMnemonicFallsThrough :
    (at' 0 ["jal x1, 8"]).program[(at' 0 ["jal x1, 8"]).pc]? = some "jal x1, 8".toList ∧
    (∀ m : Mnemonic, (decode "jal x1, 8".toList).mnemonic ≠ m.row.name) ∧
    (at' 0 [""]).program[(at' 0 [""]).pc]? = some [] ∧ (∀ m : Mnemonic, (decode []).mnemonic ≠ m.row.name) :=
  ⟨by decide, by intro m; cases m <;> decide, by decide, by intro m; cases m <;> decide⟩

theorem witness_StepCommandReportsItsOutcome :
    (at' 1 ["nop"]).program.length ≤ (at' 1 ["nop"]).pc ∧ (at' 0 ["nop"]).pc < (at' 0 ["nop"]).program.length ∧
    (nextState (step (at' 0 ["nop"]))).isSome = true ∧ (at' 0 ["nop"]).running = false ∧
    (nextState (step (inRun (at' 0 ["nop", "nop"])))).map State.halted = some false ∧ (faultOf (step (at' 0 ["lw x1"]))).isSome = true := by decide

/-- Both ends of IMM_RANGE, into an ordinary destination and into `x0`. -/
def immEnds : List (Reg × Int) := [(1, -2147483648), (0, 2147483647)]

theorem witness_AddiWrapsModulo :
    InImmRange (-2147483648) ∧ InImmRange 2147483647 ∧
    immEnds.all (fun p => completes (.addi [regOp p.1, regOp 31, .int p.2]) (at' 0 [])) = true := by
  unfold InImmRange; decide

theorem witness_SltiComparesSigned :
    InImmRange (-2147483648) ∧ InImmRange 2147483647 ∧
    immEnds.all (fun p => completes (.slti [regOp p.1, regOp 31, .int p.2]) (at' 0 [])) = true := by
  unfold InImmRange; decide

theorem witness_SltiuComparesUnsigned :
    InImmRange (-2147483648) ∧ InImmRange 2147483647 ∧
    immEnds.all (fun p => completes (.sltiu [regOp p.1, regOp 31, .int p.2]) (at' 0 [])) = true := by
  unfold InImmRange; decide

theorem witness_XoriIsBitwise :
    InImmRange (-2147483648) ∧ InImmRange 2147483647 ∧
    immEnds.all (fun p => completes (.xori [regOp p.1, regOp 31, .int p.2]) (at' 0 [])) = true := by
  unfold InImmRange; decide

theorem witness_OriIsBitwise :
    InImmRange (-2147483648) ∧ InImmRange 2147483647 ∧
    immEnds.all (fun p => completes (.ori [regOp p.1, regOp 31, .int p.2]) (at' 0 [])) = true := by
  unfold InImmRange; decide

theorem witness_AndiIsBitwise :
    InImmRange (-2147483648) ∧ InImmRange 2147483647 ∧
    immEnds.all (fun p => completes (.andi [regOp p.1, regOp 31, .int p.2]) (at' 0 [])) = true := by
  unfold InImmRange; decide

theorem witness_SlliShiftsByLowFiveBits :
    InImmRange (-2147483648) ∧ InImmRange 2147483647 ∧
    immEnds.all (fun p => completes (.slli [regOp p.1, regOp 31, .int p.2]) (at' 0 [])) = true := by
  unfold InImmRange; decide

theorem witness_SrliShiftsZerosIn :
    InImmRange (-2147483648) ∧ InImmRange 2147483647 ∧
    immEnds.all (fun p => completes (.srli [regOp p.1, regOp 31, .int p.2]) (at' 0 [])) = true := by
  unfold InImmRange; decide

theorem witness_SraiShiftsSignBitsIn :
    InImmRange (-2147483648) ∧ InImmRange 2147483647 ∧
    immEnds.all (fun p => completes (.srai [regOp p.1, regOp 31, .int p.2]) (at' 0 [])) = true := by
  unfold InImmRange; decide

theorem witness_LwLoadsTheSelectedWord :
    InImmRange (offsetOr 0 none) ∧ InImmRange (offsetOr 0 (some (-2147483648, []))) ∧
    InImmRange (offsetOr 0 (some (2147483647, [.bad]))) ∧
    completes (.lw (offsetOps 0 31 (some (2147483647, [.bad])))) (at' 0 []) = true := by
  unfold InImmRange; decide

theorem witness_SwStoresTheSelectedWord :
    Memory.wf [(0, 1), (255, 2)] = true ∧ InImmRange (offsetOr 0 none) ∧ InImmRange (offsetOr 0 (some (-2147483648, []))) ∧
    InImmRange (offsetOr 0 (some (2147483647, []))) ∧
    completes (.sw (offsetOps 31 0 none)) (cpu [] [(0, 1), (255, 2)] 0 []) = true := by
  unfold InImmRange; decide

/-- `x1` and `x2` with these values at this pc. -/
def pair (pc : Nat) (a b : Int) : State := cpu [(1, a), (2, b)] [] pc []

/-- Taken to index 0 and taken with the default offset; not taken at both ends of IMM_RANGE. -/
theorem witness_BeqBranchesOnEqual :
    InImmRange (offsetOr 1 (some (-3, []))) ∧ InImmRange (offsetOr 1 none) ∧ InImmRange (offsetOr 1 (some (-2147483648, []))) ∧
    InImmRange (offsetOr 1 (some (2147483647, []))) ∧ ((pair 3 (7) (7)).x 1) = ((pair 3 (7) (7)).x 2) ∧ ¬ ((pair 3 (7) (8)).x 1) = ((pair 3 (7) (8)).x 2) ∧
    0 ≤ ((pair 3 (7) (7)).pc : Int) + offsetOr 1 (some (-3, [])) ∧
    completes (.beq (offsetOps 1 2 (some (-3, [])))) (pair 3 (7) (7)) = true ∧
    completes (.beq (offsetOps 1 2 (some (-2147483648, [])))) (pair 3 (7) (8)) = true := by
  unfold InImmRange; decide

/-- Taken to index 0 and taken with the default offset; not taken at both ends of IMM_RANGE. -/
theorem witness_BneBranchesOnNotEqual :
    InImmRange (offsetOr 1 (some (-3, []))) ∧ InImmRange (offsetOr 1 none) ∧ InImmRange (offsetOr 1 (some (-2147483648, []))) ∧
    InImmRange (offsetOr 1 (some (2147483647, []))) ∧ ((pair 3 (7) (8)).x 1) ≠ ((pair 3 (7) (8)).x 2) ∧ ¬ ((pair 3 (7) (7)).x 1) ≠ ((pair 3 (7) (7)).x 2) ∧
    0 ≤ ((pair 3 (7) (8)).pc : Int) + offsetOr 1 (some (-3, [])) ∧
    completes (.bne (offsetOps 1 2 (some (-3, [])))) (pair 3 (7) (8)) = true ∧
    completes (.bne (offsetOps 1 2 (some (-2147483648, [])))) (pair 3 (7) (7)) = true := by
  unfold InImmRange; decide

/-- Taken to index 0 and taken with the default offset; not taken at both ends of IMM_RANGE. -/
theorem witness_BltBranchesOnSignedLess :
    InImmRange (offsetOr 1 (some (-3, []))) ∧ InImmRange (offsetOr 1 none) ∧ InImmRange (offsetOr 1 (some (-2147483648, []))) ∧
    InImmRange (offsetOr 1 (some (2147483647, []))) ∧ ((pair 3 (-1) (0)).x 1) < ((pair 3 (-1) (0)).x 2) ∧ ¬ ((pair 3 (4) (4)).x 1) < ((pair 3 (4) (4)).x 2) ∧
    0 ≤ ((pair 3 (-1) (0)).pc : Int) + offsetOr 1 (some (-3, [])) ∧
    completes (.blt (offsetOps 1 2 (some (-3, [])))) (pair 3 (-1) (0)) = true ∧
    completes (.blt (offsetOps 1 2 (some (-2147483648, [])))) (pair 3 (4) (4)) = true := by
  unfold InImmRange; decide

/-- Taken to index 0 and taken with the default offset; not taken at both ends of IMM_RANGE. -/
theorem witness_BgeBranchesOnSignedGreaterOrEqual :
    InImmRange (offsetOr 1 (some (-3, []))) ∧ InImmRange (offsetOr 1 none) ∧ InImmRange (offsetOr 1 (some (-2147483648, []))) ∧
    InImmRange (offsetOr 1 (some (2147483647, []))) ∧ ((pair 3 (4) (4)).x 1) ≥ ((pair 3 (4) (4)).x 2) ∧ ¬ ((pair 3 (-1) (0)).x 1) ≥ ((pair 3 (-1) (0)).x 2) ∧
    0 ≤ ((pair 3 (4) (4)).pc : Int) + offsetOr 1 (some (-3, [])) ∧
    completes (.bge (offsetOps 1 2 (some (-3, [])))) (pair 3 (4) (4)) = true ∧
    completes (.bge (offsetOps 1 2 (some (-2147483648, [])))) (pair 3 (-1) (0)) = true := by
  unfold InImmRange; decide

/-- Taken to index 0 and taken with the default offset; not taken at both ends of IMM_RANGE. -/
theorem witness_BltuBranchesOnUnsignedLess :
    InImmRange (offsetOr 1 (some (-3, []))) ∧ InImmRange (offsetOr 1 none) ∧ InImmRange (offsetOr 1 (some (-2147483648, []))) ∧
    InImmRange (offsetOr 1 (some (2147483647, []))) ∧ u32 ((pair 3 (1) (-1)).x 1) < u32 ((pair 3 (1) (-1)).x 2) ∧ ¬ u32 ((pair 3 (-1) (0)).x 1) < u32 ((pair 3 (-1) (0)).x 2) ∧
    0 ≤ ((pair 3 (1) (-1)).pc : Int) + offsetOr 1 (some (-3, [])) ∧
    completes (.bltu (offsetOps 1 2 (some (-3, [])))) (pair 3 (1) (-1)) = true ∧
    completes (.bltu (offsetOps 1 2 (some (-2147483648, [])))) (pair 3 (-1) (0)) = true := by
  unfold InImmRange; decide

/-- Taken to index 0 and taken with the default offset; not taken at both ends of IMM_RANGE. -/
theorem witness_BgeuBranchesOnUnsignedGreaterOrEqual :
    InImmRange (offsetOr 1 (some (-3, []))) ∧ InImmRange (offsetOr 1 none) ∧ InImmRange (offsetOr 1 (some (-2147483648, []))) ∧
    InImmRange (offsetOr 1 (some (2147483647, []))) ∧ u32 ((pair 3 (-1) (0)).x 1) ≥ u32 ((pair 3 (-1) (0)).x 2) ∧ ¬ u32 ((pair 3 (1) (-1)).x 1) ≥ u32 ((pair 3 (1) (-1)).x 2) ∧
    0 ≤ ((pair 3 (-1) (0)).pc : Int) + offsetOr 1 (some (-3, [])) ∧
    completes (.bgeu (offsetOps 1 2 (some (-3, [])))) (pair 3 (-1) (0)) = true ∧
    completes (.bgeu (offsetOps 1 2 (some (-2147483648, [])))) (pair 3 (1) (-1)) = true := by
  unfold InImmRange; decide

theorem witness_RegisterClassRecordsAndUsesTableFields :
    Mnemonic.add.row.opcode = 0x33 ∧ Mnemonic.sra.row.opcode = 0x33 ∧ Mnemonic.and.row.opcode = 0x33 := by decide

theorem witness_ImmediateClassRecordsAndUsesTableFields :
    Mnemonic.addi.row.opcode = 0x13 ∧ Mnemonic.srai.row.opcode = 0x13 ∧ InImmRange (-2147483648) ∧
    InImmRange 2147483647 := by
  unfold InImmRange; decide

theorem witness_LoadStoreRecords :
    InImmRange (offsetOr 0 none) ∧ InImmRange (offsetOr 0 (some (-2147483648, []))) ∧
    InImmRange (offsetOr 0 (some (2147483647, []))) := by
  unfold InImmRange; decide

theorem witness_BranchRecordsAndUsesTableFunct3 :
    Mnemonic.beq.row.opcode = 0x63 ∧ Mnemonic.bgeu.row.opcode = 0x63 ∧ InImmRange (offsetOr 1 (some (-3, []))) ∧
    0 ≤ ((pair 3 7 7).pc : Int) + offsetOr 1 (some (-3, [])) ∧
    (conditionFormula Mnemonic.beq.row.funct3 ((pair 3 7 7).x 1) ((pair 3 7 7).x 2)) ∧
    ¬ (conditionFormula Mnemonic.beq.row.funct3 ((pair 3 7 8).x 1) ((pair 3 7 8).x 2)) :=
  ⟨by decide, by decide, by unfold InImmRange; decide, by decide,
    show (pair 3 7 7).x 1 = (pair 3 7 7).x 2 by decide, show ¬ (pair 3 7 8).x 1 = (pair 3 7 8).x 2 by decide⟩

/-- 95_test_vectors.md 2.7: `bne x1, x2, -4` at pc 3 with equal registers is not taken, so its target may be negative. -/
theorem witness_BranchRecords_notTaken_negative :
    ¬ (conditionFormula Mnemonic.bne.row.funct3 ((pair 3 7 7).x 1) ((pair 3 7 7).x 2)) ∧
    ((pair 3 7 7).pc : Int) + offsetOr 1 (some (-4, [])) < 0 ∧ InImmRange (offsetOr 1 (some (-4, []))) ∧
    completes (.bne (offsetOps 1 2 (some (-4, [])))) (pair 3 7 7) = true :=
  ⟨show ¬ (pair 3 7 7).x 1 ≠ (pair 3 7 7).x 2 by decide, by decide, by unfold InImmRange; decide, by decide⟩

theorem witness_InvalidOperandIsRaisedExactly :
    (Instr.add [.int 32, .int 0, .int 0]).wellFormed = false ∧ (Instr.sw [.int 31, .int (-1)]).wellFormed = false ∧
    (Instr.addi [.int 0, .int 0]).wellFormed = false ∧ (Instr.addi [.int 31, .int 0, .int 2147483647]).wellFormed = true ∧
    (Instr.beq [.int 0, .int 31]).wellFormed = true := by decide

theorem witness_BranchTargetNegativeIsRaisedExactly :
    Mnemonic.bne.row.opcode = 0x63 ∧ InImmRange (offsetOr 1 (some (-4, []))) ∧
    conditionFormula Mnemonic.bne.row.funct3 ((pair 3 7 8).x 1) ((pair 3 7 8).x 2) ∧
    ((pair 3 7 8).pc : Int) + offsetOr 1 (some (-4, [])) < 0 ∧
    exec (.bne (offsetOps 1 2 (some (-4, [])))) (pair 3 7 8) =
      .fault (.branchTargetNegative 3 (pair 3 7 8).currentText (-1)) :=
  ⟨by decide, by unfold InImmRange; decide, show (pair 3 7 8).x 1 ≠ (pair 3 7 8).x 2 by decide, by decide, rfl⟩

theorem witness_FaultedMachineIsStuck :
    step (at' 0 ["add x1"]) = .fault (.invalidOperand 0 "add x1".toList 1) ∧
    step (at' 0 ["beq x0, x0, -1"]) = .fault (.branchTargetNegative 0 "beq x0, x0, -1".toList (-1)) := ⟨rfl, rfl⟩

/-- A state with a register, a cell and one instruction. -/
def ready (text : String) : State := cpu [(1, 7)] [(3, 5)] 0 [text]

theorem ready_inv (text : String) : (ready text).Inv :=
  ⟨rfl, rfl, Nat.le_add_left 1 _, by simp [ready, cpu, State.reset], rfl⟩

theorem witness_StepKeepsInvariant :
    (ready "sw x1, x0, 1020").Inv ∧ (∃ t, step (ready "sw x1, x0, 1020") = .next t) ∧
    (ready "addi x0, x1, 1").Inv ∧ (∃ t, step (ready "addi x0, x1, 1") = .next t) :=
  ⟨ready_inv _, ⟨_, rfl⟩, ready_inv _, ⟨_, rfl⟩⟩

theorem witness_HostCommandsKeepInvariant :
    (ready "add x1").Inv ∧
    (runSession [.run, .tick, .remove 0, .step, .stop] (ready "add x1")).program.length = 0 := ⟨ready_inv _, by decide⟩

theorem witness_RegisterZeroIsPinned :
    (31 : Reg) ≠ 0 ∧ (0 : Reg) ≠ 31 ∧ ∃ t, step (ready "addi x0, x1, 1") = .next t := ⟨by decide, by decide, _, rfl⟩

/-- One of each class: a store to cell 255, a load, a register and an immediate instruction, a branch, and a text
of no instruction. -/
theorem witness_StepChangesOneRegisterOrOneCell :
    ["sw x1, x0, 1020", "lw x2, x0, 12", "add x0, x1, x1", "addi x31, x1, 1", "beq x0, x0, 0", "nop"].all (fun t =>
      Memory.wf (ready t).mem && !(ready t).halted && (nextState (step (ready t))).isSome) = true := by decide

/-- The cell a store changes is the one its operands address. -/
theorem test_step_sw_cell :
    memOperands (operandsOf "sw x1, x0, 1020") = .ok (1, 0, 1020) ∧ cellIndex 1020 = 255 ∧
    (nextState (step (ready "sw x1, x0, 1020"))).map State.mem = some [(3, 5), (255, 7)] := ⟨rfl, by decide, by decide⟩

theorem witness_OnlyBranchesTransferControl :
    (ready "beq x0, x0, 0").halted = false ∧
    (∃ t, step (ready "beq x0, x0, 0") = .next t ∧ t.pc ≠ (ready "beq x0, x0, 0").pc + 1) ∧
    (∃ t, exec (.add [.int 1, .int 1, .int 1]) (ready "") = .next t) ∧
    (Instr.add [.int 1, .int 1, .int 1]).cls ≠ .branch :=
  ⟨by decide, ⟨_, rfl, by decide⟩, ⟨_, rfl⟩, by decide⟩

/-- Two states that differ in the log and the run flag only. -/
theorem witness_TraceStateIsInvisibleToPrograms :
    SameArchitecture (ready "addi x1, x1, 1") { ready "addi x1, x1, 1" with log := [⟨0, []⟩], running := true } ∧
    ready "addi x1, x1, 1" ≠ { ready "addi x1, x1, 1" with log := [⟨0, []⟩], running := true } ∧
    SameArchitecture (ready "add x1") { ready "add x1" with running := true } :=
  ⟨⟨rfl, rfl, rfl, rfl⟩, by decide, ⟨rfl, rfl, rfl, rfl⟩⟩

/-- Stored at 1020, loaded at 2047 which selects the same cell (95_test_vectors.md S8). -/
theorem witness_StoreThenLoadReturnsTheWord :
    Memory.wf (ready "").mem = true ∧ InImmRange (offsetOr 0 (some (1020, []))) ∧ InImmRange (offsetOr 0 (some (2047, []))) ∧
    (2 : Reg) ≠ 0 ∧ cellIndex ((ready "").x 0 + offsetOr 0 (some (2047, []))) =
      cellIndex ((ready "").x 0 + offsetOr 0 (some (1020, []))) := by
  unfold InImmRange; decide

theorem witness_InsertMovesLaterInstructionsUp :
    0 ≤ (at' 0 []).program.length ∧ (at' 0 []).program.length < Config.progMax ∧
    ((-1 : Int) < 0 ∨ ((at' 0 ["a"]).program.length : Int) < -1) ∧ ((2 : Int) < 0 ∨ ((at' 0 ["a"]).program.length : Int) < 2) ∧
    (applyCommand (.insert ['z'] none) (at' 0 [])).1 = at' 0 ["z"] :=
  ⟨by decide, Nat.succ_pos _, by decide, by decide, by
    have h : 0 < Config.progMax := Nat.succ_pos _
    simp [applyCommand, insertCommand, insertPosition, at', cpu, h]⟩

theorem witness_RemoveMovesLaterInstructionsDown :
    0 < (at' 3 ["a", "b", "c"]).program.length ∧ 2 < (at' 3 ["a", "b", "c"]).program.length ∧
    (applyCommand (.remove 2) (at' 3 ["a", "b", "c"])).1.program.length < (at' 3 ["a", "b", "c"]).pc ∧
    (at' 2 ["a", "b", "c"]).pc ≤ (applyCommand (.remove 0) (at' 2 ["a", "b", "c"])).1.program.length ∧
    ((-1 : Int) < 0 ∨ ((at' 0 ["a"]).program.length : Int) ≤ -1) ∧
    ((1 : Int) < 0 ∨ ((at' 0 ["a"]).program.length : Int) ≤ 1) := by decide

theorem witness_RunStopAndTickControlTheRun :
    (ready "nop").running = false ∧ (inRun (at' 1 ["nop"])).running = true ∧ (inRun (at' 1 ["nop"])).halted = true ∧
    (nextState (step (ready "nop"))).map State.running = some false ∧
    (∃ f, step (inRun (ready "add x1")) = .fault f) ∧ (inRun (ready "nop")).halted = false ∧
    (∃ t, step (inRun (ready "nop")) = .next t ∧ t.halted = true) ∧
    (∃ t, step (inRun (ready "beq x0, x0, 0")) = .next t ∧ t.halted = false) :=
  ⟨by decide, by decide, by decide, by decide, ⟨_, rfl⟩, by decide, ⟨_, rfl, by decide⟩, ⟨_, rfl, by decide⟩⟩

/-! ## Running a placed instruction -/

/-- The word of `addi x1, x0, 5` placed at reset is the next instruction to run. -/
theorem test_withFetchWord :
    step (State.reset.withFetchWord 32 0x00500093) =
      exec (.addi [.int 1, .int 0, .int 5]) (State.reset.withFetchWord 32 0x00500093) := rfl

theorem test_core : Sys2Proof.core.reset = State.reset := rfl

end Sys2Proof.Tests
end

section
/-! Registers and reset: what a register reads after a write, that no step writes the slot of `x0`, and what the
state after `reset()` reads as (10_state.md R22, R40). -/

namespace Sys2Proof.Machine

/-! ## Registers -/

/-- `State.setReg_reg` on signed values. -/
theorem State.setReg_x (s : State) (i r : Reg) (v : Word) :
    (s.setReg i v).x r = if r = i ∧ r ≠ 0 then v.toInt else s.x r := by
  unfold State.x
  rw [State.setReg_reg]
  split <;> rfl

theorem State.setReg_x_same (s : State) {i : Reg} (hi : i ≠ 0) (v : Word) : (s.setReg i v).x i = v.toInt := by
  rw [State.setReg_x, if_pos ⟨rfl, hi⟩]

theorem State.setReg_x_of_ne (s : State) {i r : Reg} (hr : r ≠ i) (v : Word) : (s.setReg i v).x r = s.x r := by
  rw [State.setReg_x, if_neg fun h => hr h.1]

/-- Only a register write touches the register file, and that one skips slot 0. -/
theorem Effect.slot_zero {s t : State} {c : Cls} {ops : List Operand} (h : Effect s c ops t) :
    t.regs[0] = s.regs[0] := by
  cases h with
  | register rd v => exact State.setReg_slot_zero s rd v
  | memory => rfl
  | branch => rfl
  | nothing => rfl

theorem step_slot_zero {s t : State} (h : step s = .next t) : t.regs[0] = s.regs[0] := by
  rcases step_next h with ⟨-, rfl⟩ | ⟨_, _, -, -, -, he⟩ | ⟨_, -, -, rfl⟩
  · rfl
  · exact he.slot_zero
  · rfl

/-- Settles O49: a register write is read back by `State.setReg_x`, and a step reaches the register file through
`State.setReg` only. -/
theorem registerZeroIsPinned : Obligations.RegisterZeroIsPinned := by
  refine ⟨fun s i v hi => ⟨?_, fun r hr => ?_⟩, fun s v => ?_, fun s t h => ?_, fun s => ?_⟩
  · rw [State.setReg_x_same s hi, toInt_wrap32]
  · exact State.setReg_x_of_ne s hr _
  · exact State.setReg_zero s _
  · exact step_slot_zero h
  · exact State.x_zero s

/-! ## Reset -/

theorem State.reset_reg (r : Reg) : State.reset.reg r = 0 := by
  unfold State.reg
  split
  · rfl
  · simp

theorem State.reset_x (r : Reg) : State.reset.x r = 0 := by
  simp [State.x, State.reset_reg]

theorem State.reset_read (k : Nat) : Memory.read State.reset.mem k = 0 := rfl

/-- `reset()` reads nothing of the state it is issued in (10_state.md R332). -/
theorem applyCommand_reset (s : State) : (applyCommand .reset s).1 = State.reset := rfl

/-- Settles O56: `reset()` gives `State.reset` from every state, so also from its own result. -/
theorem resetRestoresTheInitialSnapshot : Obligations.ResetRestoresTheInitialSnapshot := by
  refine ⟨fun s => ⟨applyCommand_reset s, ?_⟩, State.reset_x, State.reset_read, State.reset_pc, State.reset_log⟩
  simp only [applyCommand_reset]

end Sys2Proof.Machine
end

section
/-! The Decoder's numeric fields: the row of the first token, or 0 where the table has none (40_decoder.md R119). -/

namespace Sys2Proof

/-! ## Table lookup -/

/-- `lookupMnemonic_some` with its converse, `lookupMnemonic_name`. -/
theorem lookupMnemonic_eq_some_iff {name : Text} {m : Mnemonic} :
    lookupMnemonic name = some m ↔ m.row.name = name :=
  ⟨lookupMnemonic_some, fun h => h ▸ lookupMnemonic_name m⟩

theorem Mnemonic.row_name_ne_nil (m : Mnemonic) : m.row.name ≠ [] := by
  cases m <;> decide

/-- The Decoder reads an absent first token as the empty text, which is no key, so the lookup also tells whether
there is a first token. -/
theorem lookupMnemonic_head_eq_some_iff {tokens : List Text} {m : Mnemonic} :
    lookupMnemonic (tokens.head?.getD []) = some m ↔ tokens.head? = some m.row.name := by
  rw [lookupMnemonic_eq_some_iff]
  cases tokens with
  | nil => simp [m.row_name_ne_nil]
  | cons name rest => simp [eq_comm]

/-- The alternate operations are the only rows with a nonzero funct7 (30_encoding.md R86). -/
theorem Mnemonic.row_funct7_ne_zero_iff (m : Mnemonic) : m.row.funct7 ≠ 0 ↔ m = .sub ∨ m = .sra ∨ m = .srai := by
  cases m <;> decide

/-! ## The fields of a record -/

theorem decode_fields_of_lookup_some {t : Text} {m : Mnemonic}
    (h : lookupMnemonic ((tokenize t).head?.getD []) = some m) :
    (decode t).opcode = m.row.opcode ∧ (decode t).funct3 = m.row.funct3 ∧ (decode t).funct7 = m.row.funct7 := by
  simp [decode, h]

theorem decode_fields_of_lookup_none {t : Text} (h : lookupMnemonic ((tokenize t).head?.getD []) = none) :
    (decode t).opcode = 0 ∧ (decode t).funct3 = 0 ∧ (decode t).funct7 = 0 := by
  simp [decode, h]

end Sys2Proof

namespace Sys2Proof.Machine

/-- Settles O6: the three fields are read from the lookup of the first token and from nothing else. -/
theorem decodedFieldsDependOnMnemonicOnly : Obligations.DecodedFieldsDependOnMnemonicOnly := by
  refine ⟨fun t m hkey => ?_, fun t hno => ?_, Mnemonic.row_funct7_ne_zero_iff⟩
  · exact decode_fields_of_lookup_some (lookupMnemonic_head_eq_some_iff.mpr hkey)
  · have hnone : lookupMnemonic ((tokenize t).head?.getD []) = none :=
      Option.eq_none_iff_forall_ne_some.mpr fun m h => hno m (lookupMnemonic_head_eq_some_iff.mp h)
    exact decode_fields_of_lookup_none hnone

end Sys2Proof.Machine
end

section
/-! The R class (43_r_class.md): the common R step on register operands, what an instruction needs to compute its
formula, and the ALU functions of `add` and `srl` on integers. -/

namespace Sys2Proof.Machine

/-! ## The commit of a register write -/

/-- A step that writes one register and commits changes that register, `pc`, `log` and `last` only
(42_control_and_step.md R180). -/
theorem State.commit_setReg_effect (s : State) (rd : Reg) (v : Word) (next : Nat) (c : Control) (a : Option Word)
    (b aluResult : Option Int) (memDatum : Option Word) :
    WritesReg s ((s.setReg rd v).commit next c a b aluResult memDatum) rd v.toInt ∧
    KeepsMem s ((s.setReg rd v).commit next c a b aluResult memDatum) ∧
    Advances s ((s.setReg rd v).commit next c a b aluResult memDatum) next := by
  refine ⟨fun r => ?_, fun k => ?_, rfl, ⟨s.entry, ?_, s.entry_pcBefore⟩, ?_, ?_⟩
  · rw [State.commit_x, State.setReg_x]
  · rw [State.commit_mem, State.setReg_mem]
  · rw [State.commit_log, State.setReg_log, State.setReg_entry]
  · rw [State.commit_program, State.setReg_program]
  · rw [State.commit_running, State.setReg_running]

/-! ## The R step -/

/-- The R step completes on every register operands and writes the ALU's result. -/
theorem runR_regs (funct3 : BitVec 3) (funct7 : BitVec 7) (s : State) (rd rs1 rs2 : Reg) (rest : List Operand) :
    ∃ t, runR funct3 funct7 (regOp rd :: regOp rs1 :: regOp rs2 :: rest) s = .next t ∧
      WritesReg s t rd (alu funct3 funct7 (s.x rs1) (s.x rs2)).toInt ∧ KeepsMem s t ∧ Advances s t (s.pc + 1) :=
  ⟨_, runR_ok funct3 funct7 s (rOperands_regs rd rs1 rs2 rest), State.commit_setReg_effect ..⟩

/-- An instruction that is the R step with its own row's fields has the result `f` where the ALU computes `f`. -/
theorem rResult_of_alu {m : Mnemonic} {f : Int → Int → Int}
    (hexec : ∀ ops s, exec (m.instr ops) s = runR m.row.funct3 m.row.funct7 ops s)
    (halu : ∀ a b, (alu m.row.funct3 m.row.funct7 a b).toInt = f a b) :
    RResult m m.row.funct3 m.row.funct7 f := by
  refine ⟨rfl, rfl, fun s rd rs1 rs2 rest => ?_⟩
  rw [hexec, ← halu]
  exact runR_regs ..

/-! ## The ALU on integers -/

/-- A word's signed value is the coercion of its unsigned value. -/
theorem toInt_eq_wrapInt_toNat (w : Word) : w.toInt = wrapInt w.toNat :=
  BitVec.toInt_eq_toNat_bmod w

/-- `alu(0, 0x00, a, b)` (41_alu.md R142). -/
theorem alu_add_toInt (a b : Int) : (alu 0 0x00 a b).toInt = wrapInt (a + b) :=
  calc (alu 0 0x00 a b).toInt = (wrap32 a + wrap32 b).toInt := rfl
    _ = (wrap32 (a + b)).toInt := by rw [wrap32, wrap32, wrap32, BitVec.ofInt_add]
    _ = wrapInt (a + b) := toInt_wrap32 (a + b)

/-- `alu(5, 0x00, a, b)` (41_alu.md R142, R143): a logical shift is a division of the unsigned value. -/
theorem alu_srl_toInt (a b : Int) : (alu 5 0x00 a b).toInt = wrapInt ((u32 a / 2 ^ (u32 b % 32) : Nat) : Int) := by
  have hshift : alu 5 0x00 a b = wrap32 a >>> shiftAmount (wrap32 b) := rfl
  rw [hshift, toInt_eq_wrapInt_toNat, BitVec.toNat_ushiftRight, Nat.shiftRight_eq_div_pow, shiftAmount_eq,
    toNat_wrap32, toNat_wrap32]

/-! ## The instructions -/

/-- Settles O11: `add` is the R step, and 32-bit addition is the coercion of the sum. -/
theorem addWrapsModulo : Obligations.AddWrapsModulo :=
  rResult_of_alu (m := .add) (fun _ _ => rfl) alu_add_toInt

/-- Settles O17: `srl` is the R step, and a logical right shift is a floor division of the unsigned value. -/
theorem srlShiftsZerosIn : Obligations.SrlShiftsZerosIn :=
  rResult_of_alu (m := .srl) (fun _ _ => rfl) alu_srl_toInt

end Sys2Proof.Machine
end

section
/-! The I class (44_i_class.md): the common I step on two registers and an immediate in IMM_RANGE, and what an
instruction needs to compute its formula. The ALU functions are those of the R class. -/

namespace Sys2Proof.Machine

/-! ## The I step -/

/-- The I step completes on every two registers and immediate in IMM_RANGE and writes the ALU's result. -/
theorem runI_imm (funct3 : BitVec 3) (funct7 : BitVec 7) (s : State) (rd rs1 : Reg) {imm : Int}
    (himm : InImmRange imm) (rest : List Operand) :
    ∃ t, runI funct3 funct7 (regOp rd :: regOp rs1 :: .int imm :: rest) s = .next t ∧
      WritesReg s t rd (alu funct3 funct7 (s.x rs1) imm).toInt ∧ KeepsMem s t ∧ Advances s t (s.pc + 1) :=
  ⟨_, runI_ok funct3 funct7 s (iOperands_regs rd rs1 himm rest), State.commit_setReg_effect ..⟩

/-- An instruction that is the I step with its own row's fields has the result `f` where the ALU computes `f`. -/
theorem iResult_of_alu {m : Mnemonic} {f : Int → Int → Int}
    (hexec : ∀ ops s, exec (m.instr ops) s = runI m.row.funct3 m.row.funct7 ops s)
    (halu : ∀ a b, (alu m.row.funct3 m.row.funct7 a b).toInt = f a b) :
    IResult m m.row.funct3 m.row.funct7 f := by
  refine ⟨rfl, rfl, fun s rd rs1 imm rest himm => ?_⟩
  rw [hexec, ← halu]
  exact runI_imm _ _ s rd rs1 himm rest

/-! ## The instructions -/

/-- Settles O21: `addi` is the I step, and 32-bit addition is the coercion of the sum. -/
theorem addiWrapsModulo : Obligations.AddiWrapsModulo :=
  iResult_of_alu (m := .addi) (fun _ _ => rfl) alu_add_toInt

/-- Settles O28: `srli` is the I step, and a logical right shift is a floor division of the unsigned value. -/
theorem srliShiftsZerosIn : Obligations.SrliShiftsZerosIn :=
  iResult_of_alu (m := .srli) (fun _ _ => rfl) alu_srl_toInt

end Sys2Proof.Machine
end

section
/-! Loads and stores (45_load_store.md): the common load and store steps on two registers and an offset, and a load
after a store to the same cell. -/

namespace Sys2Proof.Machine

/-! ## The commit of a memory write -/

/-- `State.store_reg` on signed values. -/
@[simp] theorem State.store_x (s : State) (addr : Int) (v : Word) (r : Reg) : (s.store addr v).x r = s.x r := rfl

/-- A step that stores a word and commits changes the addressed cell, `pc`, `log` and `last` only
(42_control_and_step.md R180). -/
theorem State.commit_store_effect {s : State} (hmem : Memory.wf s.mem = true) (addr : Int) (v : Word) (next : Nat)
    (c : Control) (a : Option Word) (b aluResult : Option Int) (memDatum : Option Word) :
    WritesCell s ((s.store addr v).commit next c a b aluResult memDatum) (cellIndex addr) v ∧
    KeepsRegs s ((s.store addr v).commit next c a b aluResult memDatum) ∧
    Advances s ((s.store addr v).commit next c a b aluResult memDatum) next := by
  refine ⟨fun k => ?_, fun r => ?_, rfl, ⟨s.entry, ?_, s.entry_pcBefore⟩, ?_, ?_⟩
  · rw [State.commit_mem, State.store_mem, Memory.read_write hmem]
  · rw [State.commit_x, State.store_x]
  · rw [State.commit_log, State.store_log, State.store_entry]
  · rw [State.commit_program, State.store_program]
  · rw [State.commit_running, State.store_running]

/-! ## The instructions -/

/-- `lw` is the load step (45_load_store.md R240). -/
theorem exec_lw (ops : List Operand) (s : State) : exec (.lw ops) s = runLoad ops s := rfl

/-- `sw` is the store step (45_load_store.md R241). -/
theorem exec_sw (ops : List Operand) (s : State) : exec (.sw ops) s = runStore ops s := rfl

/-- `lw` completes on every two registers and offset in IMM_RANGE and writes the word its address selects. -/
theorem exec_lw_offsetOps (s : State) (rd rs1 : Reg) {third : Option (Int × List Operand)}
    (hoff : InImmRange (offsetOr 0 third)) :
    ∃ t, exec (.lw (offsetOps rd rs1 third)) s = .next t ∧
      WritesReg s t rd (Memory.read s.mem (cellIndex (s.x rs1 + offsetOr 0 third))).toInt ∧
      KeepsMem s t ∧ Advances s t (s.pc + 1) := by
  rw [exec_lw, runLoad_ok s (memOperands_offsetOps rd rs1 third hoff)]
  exact ⟨_, rfl, State.commit_setReg_effect ..⟩

/-- `sw` completes on every two registers and offset in IMM_RANGE and writes the cell its address selects. -/
theorem exec_sw_offsetOps {s : State} (hmem : Memory.wf s.mem = true) (rs2 rs1 : Reg)
    {third : Option (Int × List Operand)} (hoff : InImmRange (offsetOr 0 third)) :
    ∃ t, exec (.sw (offsetOps rs2 rs1 third)) s = .next t ∧
      WritesCell s t (cellIndex (s.x rs1 + offsetOr 0 third)) (s.reg rs2) ∧
      KeepsRegs s t ∧ Advances s t (s.pc + 1) := by
  rw [exec_sw, runStore_ok s (memOperands_offsetOps rs2 rs1 third hoff)]
  exact ⟨_, rfl, State.commit_store_effect hmem ..⟩

/-- Settles O53: the store keeps the base register of the load, so the load's address still selects the cell just
written. -/
theorem storeThenLoadReturnsTheWord : Obligations.StoreThenLoadReturnsTheWord := by
  intro s rs2 base rd base' third third' hmem hoff hoff' hrd hcell
  obtain ⟨t, hsw, hstored, hregs, -⟩ := exec_sw_offsetOps hmem rs2 base hoff
  obtain ⟨u, hlw, hloaded, -, -⟩ := exec_lw_offsetOps t rd base' hoff'
  refine ⟨t, u, hsw, hlw, ?_⟩
  have hread : Memory.read t.mem (cellIndex (t.x base' + offsetOr 0 third')) = s.reg rs2 := by
    rw [hregs base', hcell, hstored, if_pos rfl]
  calc u.x rd = (Memory.read t.mem (cellIndex (t.x base' + offsetOr 0 third'))).toInt := by
        rw [hloaded rd, if_pos ⟨rfl, hrd⟩]
    _ = (s.reg rs2).toInt := by rw [hread]
    _ = s.x rs2 := rfl

end Sys2Proof.Machine
end

section
/-! Run control (49_run_control.md): every step completes or faults, a step reads and writes nothing of `running`, and
what the step command reports. -/

namespace Sys2Proof.Machine

/-! ## A step completes or faults -/

theorem runR_next_or_fault (funct3 : BitVec 3) (funct7 : BitVec 7) (ops : List Operand) (s : State) :
    (∃ t, runR funct3 funct7 ops s = .next t) ∨ ∃ f, runR funct3 funct7 ops s = .fault f := by
  rcases ho : rOperands ops with k | ⟨rd, rs1, rs2⟩
  · simp [runR, ho, raiseInvalidOperand]
  · exact .inl ⟨_, runR_ok funct3 funct7 s ho⟩

theorem runI_next_or_fault (funct3 : BitVec 3) (funct7 : BitVec 7) (ops : List Operand) (s : State) :
    (∃ t, runI funct3 funct7 ops s = .next t) ∨ ∃ f, runI funct3 funct7 ops s = .fault f := by
  rcases ho : iOperands ops with k | ⟨rd, rs1, imm⟩
  · simp [runI, ho, raiseInvalidOperand]
  · exact .inl ⟨_, runI_ok funct3 funct7 s ho⟩

theorem runLoad_next_or_fault (ops : List Operand) (s : State) :
    (∃ t, runLoad ops s = .next t) ∨ ∃ f, runLoad ops s = .fault f := by
  rcases ho : memOperands ops with k | ⟨rd, rs1, off⟩
  · simp [runLoad, ho, raiseInvalidOperand]
  · exact .inl ⟨_, runLoad_ok s ho⟩

theorem runStore_next_or_fault (ops : List Operand) (s : State) :
    (∃ t, runStore ops s = .next t) ∨ ∃ f, runStore ops s = .fault f := by
  rcases ho : memOperands ops with k | ⟨rs2, rs1, off⟩
  · simp [runStore, ho, raiseInvalidOperand]
  · exact .inl ⟨_, runStore_ok s ho⟩

theorem runBranch_next_or_fault (funct3 : BitVec 3) (ops : List Operand) (s : State) :
    (∃ t, runBranch funct3 ops s = .next t) ∨ ∃ f, runBranch funct3 ops s = .fault f := by
  rcases ho : branchOperands ops with k | ⟨rs1, rs2, off⟩
  · simp [runBranch, ho, raiseInvalidOperand]
  · cases hc : branchCondition funct3 (s.reg rs1) (s.reg rs2) with
    | false => exact .inl ⟨_, runBranch_notTaken funct3 s ho hc⟩
    | true =>
      rcases lt_or_ge ((s.pc : Int) + off) 0 with ht | ht
      · exact .inr ⟨_, runBranch_negative funct3 s ho hc ht⟩
      · exact .inl ⟨_, runBranch_taken funct3 s ho hc ht⟩

theorem exec_next_or_fault (i : Instr) (s : State) : (∃ t, exec i s = .next t) ∨ ∃ f, exec i s = .fault f := by
  rcases exec_eq_run i s with ⟨-, h⟩ | ⟨-, h⟩ | ⟨-, h⟩ | ⟨-, h⟩ | ⟨-, h⟩ <;> rw [h]
  · exact runR_next_or_fault ..
  · exact runI_next_or_fault ..
  · exact runLoad_next_or_fault ..
  · exact runStore_next_or_fault ..
  · exact runBranch_next_or_fault ..

/-- No step is refused (60_exceptions.md R303). -/
theorem step_next_or_fault (s : State) : (∃ t, step s = .next t) ∨ ∃ f, step s = .fault f := by
  unfold step
  split
  · exact .inl ⟨_, rfl⟩
  · split
    · exact exec_next_or_fault ..
    · exact .inl ⟨_, rfl⟩

/-! ## The StepRecord of a completed step -/

/-- Every effect ends in a commit, which leaves a StepRecord (42_control_and_step.md R180). -/
theorem Effect.last_eq_some {s t : State} {c : Cls} {ops : List Operand} (h : Effect s c ops t) :
    ∃ r, t.last = some r := by
  cases h with
  | register => exact ⟨_, State.commit_last ..⟩
  | memory => exact ⟨_, State.commit_last ..⟩
  | branch => exact ⟨_, State.commitBranch_last ..⟩
  | nothing => exact ⟨_, State.fallThrough_last _⟩

theorem State.halted_eq_true_iff (s : State) : s.halted = true ↔ s.program.length ≤ s.pc := by
  simp [State.halted]

theorem State.halted_eq_false_iff (s : State) : s.halted = false ↔ s.pc < s.program.length := by
  simp [State.halted]

theorem step_last_eq_some {s t : State} (hs : s.halted = false) (h : step s = .next t) : ∃ r, t.last = some r := by
  have hfetch : s.fetch ≠ none := fun hnone => by simp [s.halted_iff_fetch.mpr hnone] at hs
  obtain ⟨_, _, he⟩ := step_effect h hfetch
  exact he.last_eq_some

/-! ## `running` does not matter to a step -/

/-- The state with `running` set to `b`, every other field kept. -/
def State.withRunning (s : State) (b : Bool) : State := { s with running := b }

/-- An outcome with `running` set to `b` in its next state. -/
def outcomeWithRunning (o : Host.Outcome State Fault Refusal) (b : Bool) : Host.Outcome State Fault Refusal :=
  match o with
  | .next t => .next (t.withRunning b)
  | .fault f => .fault f
  | .refused r => .refused r

@[simp] theorem outcomeWithRunning_next (t : State) (b : Bool) :
    outcomeWithRunning (.next t) b = .next (t.withRunning b) := rfl

@[simp] theorem outcomeWithRunning_fault (f : Fault) (b : Bool) : outcomeWithRunning (.fault f) b = .fault f := rfl

section WithRunning

variable (s : State) (b : Bool)

@[simp] theorem State.withRunning_pc : (s.withRunning b).pc = s.pc := rfl
@[simp] theorem State.withRunning_last : (s.withRunning b).last = s.last := rfl
@[simp] theorem State.withRunning_reg (i : Reg) : (s.withRunning b).reg i = s.reg i := rfl
@[simp] theorem State.withRunning_x (i : Reg) : (s.withRunning b).x i = s.x i := rfl
@[simp] theorem State.withRunning_load (addr : Int) : (s.withRunning b).load addr = s.load addr := rfl
@[simp] theorem State.withRunning_fetch : (s.withRunning b).fetch = s.fetch := rfl
@[simp] theorem State.withRunning_halted : (s.withRunning b).halted = s.halted := rfl
@[simp] theorem State.withRunning_currentText : (s.withRunning b).currentText = s.currentText := rfl

@[simp] theorem State.withRunning_setReg (i : Reg) (v : Word) :
    (s.withRunning b).setReg i v = (s.setReg i v).withRunning b := by
  unfold State.setReg; split <;> rfl

@[simp] theorem State.withRunning_store (addr : Int) (v : Word) :
    (s.withRunning b).store addr v = (s.store addr v).withRunning b := rfl

@[simp] theorem State.withRunning_commit (n : Nat) (c : Control) (a : Option Word) (p r : Option Int)
    (d : Option Word) : (s.withRunning b).commit n c a p r d = (s.commit n c a p r d).withRunning b := rfl

@[simp] theorem State.withRunning_commitBranch (p q : Reg) (n : Nat) :
    (s.withRunning b).commitBranch p q n = (s.commitBranch p q n).withRunning b := rfl

@[simp] theorem State.withRunning_fallThrough :
    (s.withRunning b).fallThrough = s.fallThrough.withRunning b := rfl

theorem runR_withRunning (funct3 : BitVec 3) (funct7 : BitVec 7) (ops : List Operand) :
    runR funct3 funct7 ops (s.withRunning b) = outcomeWithRunning (runR funct3 funct7 ops s) b := by
  rcases ho : rOperands ops with k | ⟨rd, rs1, rs2⟩
  · simp [runR, ho, raiseInvalidOperand]
  · simp [runR_ok _ _ _ ho]

theorem runI_withRunning (funct3 : BitVec 3) (funct7 : BitVec 7) (ops : List Operand) :
    runI funct3 funct7 ops (s.withRunning b) = outcomeWithRunning (runI funct3 funct7 ops s) b := by
  rcases ho : iOperands ops with k | ⟨rd, rs1, imm⟩
  · simp [runI, ho, raiseInvalidOperand]
  · simp [runI_ok _ _ _ ho]

theorem runLoad_withRunning (ops : List Operand) :
    runLoad ops (s.withRunning b) = outcomeWithRunning (runLoad ops s) b := by
  rcases ho : memOperands ops with k | ⟨rd, rs1, off⟩
  · simp [runLoad, ho, raiseInvalidOperand]
  · simp [runLoad_ok _ ho]

theorem runStore_withRunning (ops : List Operand) :
    runStore ops (s.withRunning b) = outcomeWithRunning (runStore ops s) b := by
  rcases ho : memOperands ops with k | ⟨rs2, rs1, off⟩
  · simp [runStore, ho, raiseInvalidOperand]
  · simp [runStore_ok _ ho]

theorem runBranch_withRunning (funct3 : BitVec 3) (ops : List Operand) :
    runBranch funct3 ops (s.withRunning b) = outcomeWithRunning (runBranch funct3 ops s) b := by
  rcases ho : branchOperands ops with k | ⟨rs1, rs2, off⟩
  · simp [runBranch, ho, raiseInvalidOperand]
  · cases hc : branchCondition funct3 (s.reg rs1) (s.reg rs2) with
    | false =>
      rw [runBranch_notTaken _ s ho hc]
      exact runBranch_notTaken _ (s.withRunning b) ho hc
    | true =>
      rcases lt_or_ge ((s.pc : Int) + off) 0 with ht | ht
      · rw [runBranch_negative _ s ho hc ht]
        exact runBranch_negative _ (s.withRunning b) ho hc ht
      · rw [runBranch_taken _ s ho hc ht]
        exact runBranch_taken _ (s.withRunning b) ho hc ht

theorem exec_withRunning (i : Instr) : exec i (s.withRunning b) = outcomeWithRunning (exec i s) b := by
  cases i
  case add | sub | sll | slt | sltu | xor | srl | sra | or | and => exact runR_withRunning ..
  case addi | slti | sltiu | xori | ori | andi | slli | srli | srai => exact runI_withRunning ..
  case lw => exact runLoad_withRunning ..
  case sw => exact runStore_withRunning ..
  case beq | bne | blt | bge | bltu | bgeu => exact runBranch_withRunning ..

theorem step_withRunning : step (s.withRunning b) = outcomeWithRunning (step s) b := by
  unfold step
  rw [State.withRunning_fetch]
  split
  · rfl
  · split
    · exact exec_withRunning ..
    · rfl

/-- The report of the step command does not depend on `running`. -/
theorem stepCommand_withRunning_report : (stepCommand (s.withRunning b)).2 = (stepCommand s).2 := by
  have hhalted : (s.withRunning b).halted = s.halted := State.withRunning_halted s b
  have hstep := step_withRunning s b
  cases hs : s.halted with
  | true => rw [stepCommand_halted hs, stepCommand_halted (hhalted.trans hs)]
  | false =>
    rcases step_next_or_fault s with ⟨t, ht⟩ | ⟨f, hf⟩
    · rw [ht, outcomeWithRunning_next] at hstep
      rw [stepCommand_next hs ht, stepCommand_next (hhalted.trans hs) hstep, State.withRunning_last]
    · rw [hf, outcomeWithRunning_fault] at hstep
      rw [stepCommand_fault hs hf, stepCommand_fault (hhalted.trans hs) hstep]

end WithRunning

/-! ## The step command -/

/-- Settles O10: a step that is not halted completes, with a StepRecord, or faults, and neither depends on
`running`. -/
theorem stepCommandReportsItsOutcome : Obligations.StepCommandReportsItsOutcome := by
  refine fun s => ⟨fun hend => stepCommand_halted (s.halted_eq_true_iff.mpr hend), fun hpc => ?_,
    stepCommand_withRunning_report s⟩
  have hs : s.halted = false := s.halted_eq_false_iff.mpr hpc
  rcases step_next_or_fault s with ⟨t, ht⟩ | ⟨f, hf⟩
  · obtain ⟨r, hr⟩ := step_last_eq_some hs ht
    have hcmd : stepCommand s = (t, .done (some r)) := hr ▸ stepCommand_next hs ht
    rw [hcmd]
    exact .inl ⟨t, r, ht, hr, rfl, rfl, fun _ => rfl⟩
  · exact .inr ⟨f, hf, by rw [stepCommand_fault hs hf]⟩

end Sys2Proof.Machine
end

section
/-! What the class steps and `step` answer, an equation per case: the class steps on operands whose check fails,
`exec` by the class of the instruction, and `step` by what the text at `pc` decodes to (42_control_and_step.md R180,
R181). -/

namespace Sys2Proof

/-- The class of an instruction is the class its row's opcode gives (30_encoding.md R85). -/
theorem Mnemonic.instr_cls (m : Mnemonic) (ops : List Operand) : (m.instr ops).cls = classOf m.row.opcode := by
  cases m <;> rfl

theorem Instr.cls_eq_classOf (i : Instr) : i.cls = classOf i.mnemonic.row.opcode := by
  rw [← Mnemonic.instr_cls i.mnemonic i.operands, Instr.mnemonic_instr]

theorem Instr.wellFormed_of_cls {i : Instr} {c : Cls} (hc : i.cls = c) : i.wellFormed = operandsFit c i.operands := by
  rw [Instr.wellFormed, hc]

end Sys2Proof

namespace Sys2Proof.Machine

/-! ## The class steps on operands whose check fails -/

theorem runR_error (funct3 : BitVec 3) (funct7 : BitVec 7) {ops : List Operand} (s : State) {k : Nat}
    (ho : rOperands ops = .error k) : runR funct3 funct7 ops s = raiseInvalidOperand s k := by
  simp [runR, ho]

theorem runI_error (funct3 : BitVec 3) (funct7 : BitVec 7) {ops : List Operand} (s : State) {k : Nat}
    (ho : iOperands ops = .error k) : runI funct3 funct7 ops s = raiseInvalidOperand s k := by
  simp [runI, ho]

theorem runLoad_error {ops : List Operand} (s : State) {k : Nat} (ho : memOperands ops = .error k) :
    runLoad ops s = raiseInvalidOperand s k := by
  simp [runLoad, ho]

theorem runStore_error {ops : List Operand} (s : State) {k : Nat} (ho : memOperands ops = .error k) :
    runStore ops s = raiseInvalidOperand s k := by
  simp [runStore, ho]

theorem runBranch_error (funct3 : BitVec 3) {ops : List Operand} (s : State) {k : Nat}
    (ho : branchOperands ops = .error k) : runBranch funct3 ops s = raiseInvalidOperand s k := by
  simp [runBranch, ho]

/-! ## `exec` by class -/

section ExecByClass

variable {i : Instr} (s : State)

theorem exec_of_regReg (hi : i.cls = .regReg) :
    exec i s = runR i.mnemonic.row.funct3 i.mnemonic.row.funct7 i.operands s := by
  simpa [hi] using exec_eq_run i s

theorem exec_of_regImm (hi : i.cls = .regImm) :
    exec i s = runI i.mnemonic.row.funct3 i.mnemonic.row.funct7 i.operands s := by
  simpa [hi] using exec_eq_run i s

theorem exec_of_load (hi : i.cls = .load) : exec i s = runLoad i.operands s := by
  simpa [hi] using exec_eq_run i s

theorem exec_of_store (hi : i.cls = .store) : exec i s = runStore i.operands s := by
  simpa [hi] using exec_eq_run i s

theorem exec_of_branch (hi : i.cls = .branch) : exec i s = runBranch i.mnemonic.row.funct3 i.operands s := by
  simpa [hi] using exec_eq_run i s

end ExecByClass

/-! ## `step` by the text at `pc` -/

theorem step_of_fetch_none {s : State} (hf : s.fetch = none) : step s = .next s := by
  simp [step, hf]

theorem step_of_instr {s : State} {text : Text} {i : Instr} (hf : s.fetch = some text)
    (hi : (decode text).instr = some i) : step s = exec i s := by
  simp [step, hf, hi]

theorem step_of_instr_none {s : State} {text : Text} (hf : s.fetch = some text) (hi : (decode text).instr = none) :
    step s = .next s.fallThrough := by
  simp [step, hf, hi]

theorem State.currentText_of_fetch {s : State} {text : Text} (hf : s.fetch = some text) : s.currentText = text := by
  simp [State.currentText, hf]

/-- Settles O8: `step` is fetch, decode and `exec`. -/
theorem stepExecutesDecodedInstruction : Obligations.StepExecutesDecodedInstruction :=
  fun _ _ _ hf hi => step_of_instr hf hi

end Sys2Proof.Machine
end

section
/-! The invariant (10_state.md R22, R26, R28, R32, R33, 42_control_and_step.md R172): every commit establishes its
trace part, and each host command keeps it. -/

namespace Sys2Proof.Machine

/-! ## Commits -/

/-- Every row of the control table is a legal vector (42_control_and_step.md R171, R172). -/
theorem controlSignals_legal (c : Cls) : (controlSignals c).legal := by
  unfold Control.legal
  cases c <;> decide

/-- A commit needs only the invariant's data part: the StepRecord and the log entry it writes agree. -/
theorem State.commit_inv {s : State} (hmem : Memory.wf s.mem = true) (hzero : s.regs[0] = 0)
    (hlen : s.program.length ≤ Config.progMax) (next : Nat) (cls : Cls) (a : Option Word)
    (b aluResult : Option Int) (memDatum : Option Word) :
    (s.commit next (controlSignals cls) a b aluResult memDatum).Inv := by
  refine ⟨hmem, hzero, hlen, fun r hr => ?_, ?_⟩
  · rw [State.commit_last, Option.some.injEq] at hr
    rw [← hr]
    exact controlSignals_legal cls
  · rw [State.commit_last, State.commit_log, List.getLast?_concat, Option.map_some]

/-- Whatever an instruction wrote before its commit, the memory stays canonical and the slot of `x0` zero. -/
theorem Effect.inv {s t : State} {c : Cls} {ops : List Operand} (h : Effect s c ops t) (hs : s.Inv) : t.Inv := by
  obtain ⟨hmem, hzero, hlen, -, -⟩ := hs
  cases h with
  | register rd v =>
    refine State.commit_inv ?_ ((State.setReg_slot_zero s rd v).trans hzero) ?_ ..
    · rwa [State.setReg_mem]
    · rwa [State.setReg_program]
  | memory rs2 rs1 off =>
    have hmem' : Memory.wf (s.store (s.x rs1 + off) (s.reg rs2)).mem = true := Memory.write_wf hmem (cellIndex_lt _) _
    exact State.commit_inv hmem' hzero hlen ..
  | branch => exact State.commit_inv hmem hzero hlen ..
  | nothing => exact State.commit_inv hmem hzero hlen ..

theorem step_inv {s t : State} (hs : s.Inv) (h : step s = .next t) : t.Inv := by
  rcases step_next h with ⟨-, rfl⟩ | ⟨_, _, -, -, -, he⟩ | ⟨_, -, -, rfl⟩
  · exact hs
  · exact he.inv hs
  · exact (Effect.nothing (ops := []) rfl).inv hs

/-- Settles O47: a completed step is nothing, an instruction's effect or the fall-through, and each keeps the
invariant. -/
theorem stepKeepsInvariant : Obligations.StepKeepsInvariant :=
  fun _ _ => step_inv

/-! ## Host commands -/

/-- The invariant does not speak of `running`. -/
theorem State.withRunning_inv {s : State} (hs : s.Inv) (b : Bool) : (s.withRunning b).Inv := hs

theorem State.reset_inv : State.reset.Inv := by
  refine ⟨rfl, by simp, ?_, fun r hr => ?_, rfl⟩
  · exact List.length_take_le ..
  · simp at hr

theorem stepCommand_inv {s : State} (hs : s.Inv) : (stepCommand s).1.Inv := by
  cases hh : s.halted with
  | true => rwa [stepCommand_halted hh]
  | false =>
    rcases step_next_or_fault s with ⟨t, ht⟩ | ⟨f, hf⟩
    · rw [stepCommand_next hh ht]
      exact step_inv hs ht
    · rw [stepCommand_fault hh hf]
      exact State.withRunning_inv hs false

theorem tickCommand_inv {s : State} (hs : s.Inv) : (tickCommand s).1.Inv := by
  unfold tickCommand
  split
  · unfold State.endRunIfHalted
    split
    · exact State.withRunning_inv (stepCommand_inv hs) false
    · exact stepCommand_inv hs
  · exact hs

theorem length_insertAt {α : Type} (l : List α) (p : Nat) (x : α) :
    (l.take p ++ x :: l.drop p).length = l.length + 1 := by
  simp only [List.length_append, List.length_take, List.length_cons, List.length_drop]
  omega

/-- An insertion lengthens only a program shorter than PROG_MAX. -/
theorem insertCommand_inv {s : State} (hs : s.Inv) (text : Text) (position : Option Int) :
    (insertCommand text position s).1.Inv := by
  unfold insertCommand
  split
  · exact hs
  · split
    · rename_i hlen
      obtain ⟨hmem, hzero, -, hlast, htrace⟩ := hs
      exact ⟨hmem, hzero, (length_insertAt ..).trans_le hlen, hlast, htrace⟩
    · exact hs

theorem removeCommand_inv {s : State} (hs : s.Inv) (index : Int) : (removeCommand index s).1.Inv := by
  unfold removeCommand
  split
  · obtain ⟨hmem, hzero, hlen, hlast, htrace⟩ := hs
    exact ⟨hmem, hzero, (List.length_eraseIdx_le ..).trans hlen, hlast, htrace⟩
  · exact hs

theorem applyCommand_inv {s : State} (hs : s.Inv) (c : Command) : (applyCommand c s).1.Inv := by
  cases c with
  | step => exact stepCommand_inv hs
  | run => exact State.withRunning_inv hs true
  | tick => exact tickCommand_inv hs
  | stop => exact State.withRunning_inv hs false
  | reset => exact State.reset_inv
  | insert text position => exact insertCommand_inv hs text position
  | remove index => exact removeCommand_inv hs index

/-- Settles O48, by induction on the commands. -/
theorem hostCommandsKeepInvariant : Obligations.HostCommandsKeepInvariant := by
  intro cs
  induction cs with
  | nil => exact fun s hs => hs
  | cons c cs ih => exact fun s hs => ih _ (applyCommand_inv hs c)

/-- Settles O46: the reset state's program is cut to PROG_MAX, and everything else of it is zero or empty. -/
theorem resetStateMeetsInvariant : Obligations.ResetStateMeetsInvariant :=
  ⟨State.reset_inv, State.reset_program, State.reset_last, State.reset_running⟩

end Sys2Proof.Machine
end

section
/-! States that agree on registers, memory, `pc` and `program` (10_state.md R37): every operation gives the same
value on both or takes them to states that agree again, and so does a step. -/

namespace Sys2Proof.Machine

section SameArchitecture

variable {s u : State} (h : SameArchitecture s u)
include h

/-! ## Reads -/

theorem SameArchitecture.pc_eq : s.pc = u.pc := by
  obtain ⟨-, -, hpc, -⟩ := h
  exact hpc

theorem SameArchitecture.reg_eq (r : Reg) : s.reg r = u.reg r := by
  obtain ⟨hregs, -, -, -⟩ := h
  rw [State.reg, State.reg, hregs]

theorem SameArchitecture.x_eq (r : Reg) : s.x r = u.x r := by
  rw [State.x, State.x, h.reg_eq]

theorem SameArchitecture.load_eq (addr : Int) : s.load addr = u.load addr := by
  obtain ⟨-, hmem, -, -⟩ := h
  rw [State.load, State.load, hmem]

theorem SameArchitecture.fetch_eq : s.fetch = u.fetch := by
  obtain ⟨-, -, hpc, hprog⟩ := h
  rw [State.fetch, State.fetch, hpc, hprog]

theorem SameArchitecture.currentText_eq : s.currentText = u.currentText := by
  rw [State.currentText, State.currentText, h.fetch_eq]

/-! ## Writes -/

theorem SameArchitecture.setReg (r : Reg) (v : Word) : SameArchitecture (s.setReg r v) (u.setReg r v) := by
  obtain ⟨hregs, hmem, hpc, hprog⟩ := h
  unfold State.setReg
  split
  · exact ⟨hregs, hmem, hpc, hprog⟩
  · exact ⟨congrArg (·.set r v) hregs, hmem, hpc, hprog⟩

theorem SameArchitecture.store (addr : Int) (v : Word) : SameArchitecture (s.store addr v) (u.store addr v) := by
  obtain ⟨hregs, hmem, hpc, hprog⟩ := h
  exact ⟨hregs, congrArg (Memory.write · _ v) hmem, hpc, hprog⟩

/-- What the commits record may differ; the next pc may not. -/
theorem SameArchitecture.commit (next : Nat) (c c' : Control) (a a' : Option Word) (b b' r r' : Option Int)
    (d d' : Option Word) : SameArchitecture (s.commit next c a b r d) (u.commit next c' a' b' r' d') := by
  obtain ⟨hregs, hmem, -, hprog⟩ := h
  exact ⟨hregs, hmem, rfl, hprog⟩

end SameArchitecture

/-! ## Outcomes -/

/-- Both outcomes are next states that agree, or both are the same fault. -/
def SameOutcome (o o' : Host.Outcome State Fault Refusal) : Prop :=
  (∃ s u, o = .next s ∧ o' = .next u ∧ SameArchitecture s u) ∨ (∃ f, o = .fault f ∧ o' = .fault f)

theorem SameOutcome.of_next {s u : State} (h : SameArchitecture s u) : SameOutcome (.next s) (.next u) :=
  .inl ⟨s, u, rfl, rfl, h⟩

section Steps

variable {s u : State} (h : SameArchitecture s u)
include h

theorem SameArchitecture.raiseInvalidOperand (k : Nat) :
    SameOutcome (raiseInvalidOperand s k) (raiseInvalidOperand u k) := by
  unfold Machine.raiseInvalidOperand
  rw [h.pc_eq, h.currentText_eq]
  exact .inr ⟨_, rfl, rfl⟩

theorem SameArchitecture.runR (funct3 : BitVec 3) (funct7 : BitVec 7) (ops : List Operand) :
    SameOutcome (runR funct3 funct7 ops s) (runR funct3 funct7 ops u) := by
  rcases ho : rOperands ops with k | ⟨rd, rs1, rs2⟩
  · rw [runR_error _ _ s ho, runR_error _ _ u ho]
    exact h.raiseInvalidOperand k
  · rw [runR_ok _ _ s ho, runR_ok _ _ u ho, h.pc_eq, h.x_eq, h.x_eq]
    exact .of_next ((h.setReg _ _).commit ..)

theorem SameArchitecture.runI (funct3 : BitVec 3) (funct7 : BitVec 7) (ops : List Operand) :
    SameOutcome (runI funct3 funct7 ops s) (runI funct3 funct7 ops u) := by
  rcases ho : iOperands ops with k | ⟨rd, rs1, imm⟩
  · rw [runI_error _ _ s ho, runI_error _ _ u ho]
    exact h.raiseInvalidOperand k
  · rw [runI_ok _ _ s ho, runI_ok _ _ u ho, h.pc_eq, h.x_eq]
    exact .of_next ((h.setReg _ _).commit ..)

theorem SameArchitecture.runLoad (ops : List Operand) : SameOutcome (runLoad ops s) (runLoad ops u) := by
  rcases ho : memOperands ops with k | ⟨rd, rs1, off⟩
  · rw [runLoad_error s ho, runLoad_error u ho]
    exact h.raiseInvalidOperand k
  · rw [runLoad_ok s ho, runLoad_ok u ho, h.pc_eq, h.x_eq, h.load_eq]
    exact .of_next ((h.setReg _ _).commit ..)

theorem SameArchitecture.runStore (ops : List Operand) : SameOutcome (runStore ops s) (runStore ops u) := by
  rcases ho : memOperands ops with k | ⟨rs2, rs1, off⟩
  · rw [runStore_error s ho, runStore_error u ho]
    exact h.raiseInvalidOperand k
  · rw [runStore_ok s ho, runStore_ok u ho, h.pc_eq, h.x_eq, h.reg_eq rs2]
    exact .of_next ((h.store _ _).commit ..)

/-- The condition and the target are the same in both states. -/
theorem SameArchitecture.runBranch (funct3 : BitVec 3) (ops : List Operand) :
    SameOutcome (runBranch funct3 ops s) (runBranch funct3 ops u) := by
  rcases ho : branchOperands ops with k | ⟨rs1, rs2, off⟩
  · rw [runBranch_error _ s ho, runBranch_error _ u ho]
    exact h.raiseInvalidOperand k
  · have hcond : branchCondition funct3 (s.reg rs1) (s.reg rs2) = branchCondition funct3 (u.reg rs1) (u.reg rs2) := by
      rw [h.reg_eq, h.reg_eq]
    cases hc : branchCondition funct3 (u.reg rs1) (u.reg rs2) with
    | false =>
      rw [runBranch_notTaken _ s ho (hcond.trans hc), runBranch_notTaken _ u ho hc, h.pc_eq]
      exact .of_next (h.commit ..)
    | true =>
      rcases lt_or_ge ((u.pc : Int) + off) 0 with ht | ht
      · rw [runBranch_negative _ s ho (hcond.trans hc) (h.pc_eq ▸ ht), runBranch_negative _ u ho hc ht, h.pc_eq,
          h.currentText_eq]
        exact .inr ⟨_, rfl, rfl⟩
      · rw [runBranch_taken _ s ho (hcond.trans hc) (h.pc_eq ▸ ht), runBranch_taken _ u ho hc ht, h.pc_eq]
        exact .of_next (h.commit ..)

theorem SameArchitecture.exec (i : Instr) : SameOutcome (exec i s) (exec i u) := by
  cases i
  case add | sub | sll | slt | sltu | xor | srl | sra | or | and => exact h.runR ..
  case addi | slti | sltiu | xori | ori | andi | slli | srli | srai => exact h.runI ..
  case lw => exact h.runLoad ..
  case sw => exact h.runStore ..
  case beq | bne | blt | bge | bltu | bgeu => exact h.runBranch ..

theorem SameArchitecture.fallThrough : SameArchitecture s.fallThrough u.fallThrough := by
  unfold State.fallThrough
  rw [h.pc_eq]
  exact h.commit ..

theorem SameArchitecture.step : SameOutcome (step s) (step u) := by
  cases hf : u.fetch with
  | none =>
    rw [step_of_fetch_none (h.fetch_eq.trans hf), step_of_fetch_none hf]
    exact .of_next h
  | some text =>
    cases hi : (decode text).instr with
    | none =>
      rw [step_of_instr_none (h.fetch_eq.trans hf) hi, step_of_instr_none hf hi]
      exact .of_next h.fallThrough
    | some i =>
      rw [step_of_instr (h.fetch_eq.trans hf) hi, step_of_instr hf hi]
      exact h.exec i

end Steps

/-- Settles O52: what a step does is computed from registers, memory, `pc` and `program`. -/
theorem traceStateIsInvisibleToPrograms : Obligations.TraceStateIsInvisibleToPrograms :=
  fun _ _ h => h.step

end Sys2Proof.Machine
end

section
/-! The 32-bit word form (30_encoding.md R93 to R97, decision D3): the six fields every format lays out, the rows' fixed
bits, and reading back a word that was packed. -/

namespace Sys2Proof

/-! ## The six fields of a word -/

/-- A word by its fields, `w[31:25]` first. Every format of 30_encoding.md R93 fills these six. -/
def wordOfFields (high : BitVec 7) (rs2 rs1 : BitVec 5) (f3 : BitVec 3) (low : BitVec 5) (op : BitVec 7) : Word :=
  high ++ rs2 ++ rs1 ++ f3 ++ low ++ op

section Fields

variable (high : BitVec 7) (rs2 rs1 : BitVec 5) (f3 : BitVec 3) (low : BitVec 5) (op : BitVec 7)

@[simp] theorem wordOfFields_op : (wordOfFields high rs2 rs1 f3 low op).extractLsb' 0 7 = op :=
  BitVec.extractLsb'_append_eq_right

@[simp] theorem wordOfFields_low : (wordOfFields high rs2 rs1 f3 low op).extractLsb' 7 5 = low := by
  rw [wordOfFields, BitVec.extractLsb'_append_eq_of_le (w := 7) (by decide)]
  exact BitVec.extractLsb'_append_eq_right

@[simp] theorem wordOfFields_f3 : (wordOfFields high rs2 rs1 f3 low op).extractLsb' 12 3 = f3 := by
  rw [wordOfFields, BitVec.extractLsb'_append_eq_of_le (w := 7) (by decide),
    BitVec.extractLsb'_append_eq_of_le (w := 5) (by decide)]
  exact BitVec.extractLsb'_append_eq_right

@[simp] theorem wordOfFields_rs1 : (wordOfFields high rs2 rs1 f3 low op).extractLsb' 15 5 = rs1 := by
  rw [wordOfFields, BitVec.extractLsb'_append_eq_of_le (w := 7) (by decide),
    BitVec.extractLsb'_append_eq_of_le (w := 5) (by decide), BitVec.extractLsb'_append_eq_of_le (w := 3) (by decide)]
  exact BitVec.extractLsb'_append_eq_right

@[simp] theorem wordOfFields_rs2 : (wordOfFields high rs2 rs1 f3 low op).extractLsb' 20 5 = rs2 := by
  rw [wordOfFields, BitVec.extractLsb'_append_eq_of_le (w := 7) (by decide),
    BitVec.extractLsb'_append_eq_of_le (w := 5) (by decide), BitVec.extractLsb'_append_eq_of_le (w := 3) (by decide),
    BitVec.extractLsb'_append_eq_of_le (w := 5) (by decide)]
  exact BitVec.extractLsb'_append_eq_right

@[simp] theorem wordOfFields_high : (wordOfFields high rs2 rs1 f3 low op).extractLsb' 25 7 = high := by
  rw [wordOfFields, BitVec.extractLsb'_append_eq_of_le (w := 7) (by decide),
    BitVec.extractLsb'_append_eq_of_le (w := 5) (by decide), BitVec.extractLsb'_append_eq_of_le (w := 3) (by decide),
    BitVec.extractLsb'_append_eq_of_le (w := 5) (by decide)]
  exact BitVec.extractLsb'_append_eq_left

end Fields

/-! ## The fixed bits of a row -/

/-- What the mask of the I, S and B formats keeps: funct3 and the opcode (30_encoding.md R97). -/
theorem and_mask_low (w : Word) :
    w &&& (0x0000707F : Word) = ((w.extractLsb' 12 3).setWidth 32 <<< 12) ||| (w.extractLsb' 0 7).setWidth 32 := by
  ext i hi
  interval_cases i <;> simp

/-- What the mask of the R format keeps: funct7 as well. -/
theorem and_mask_high (w : Word) :
    w &&& (0xFE00707F : Word) = ((w.extractLsb' 25 7).setWidth 32 <<< 25) |||
      ((w.extractLsb' 12 3).setWidth 32 <<< 12) ||| (w.extractLsb' 0 7).setWidth 32 := by
  ext i hi
  interval_cases i <;> simp

/-- Two rows whose fixed bits agree where both masks cover them are the same row. -/
theorem Mnemonic.eq_of_matchValue_and_mask : ∀ m ∈ Mnemonic.all, ∀ n ∈ Mnemonic.all,
    m.matchValue &&& n.mask = n.matchValue &&& m.mask → m = n := by
  decide

theorem Mnemonic.matchesWord_iff (m : Mnemonic) (w : Word) : m.matchesWord w = true ↔ w &&& m.mask = m.matchValue := by
  simp [Mnemonic.matchesWord]

/-- A word holding a row's opcode, funct3 and, where the format has one, funct7 has the row's fixed bits. -/
theorem Mnemonic.matchesWord_of_fields {m : Mnemonic} {w : Word} (hop : w.extractLsb' 0 7 = m.row.opcode)
    (hf3 : w.extractLsb' 12 3 = m.row.funct3)
    (hf7 : m.format = .r ∨ m.format = .iShift → w.extractLsb' 25 7 = m.row.funct7) : m.matchesWord w = true := by
  rw [Mnemonic.matchesWord_iff, Mnemonic.mask, Mnemonic.matchValue]
  cases hm : m.format with
  | r => dsimp only; rw [and_mask_high, hop, hf3, hf7 (.inl hm)]
  | iShift => dsimp only; rw [and_mask_high, hop, hf3, hf7 (.inr hm)]
  | i | s | b => dsimp only; rw [and_mask_low, hop, hf3]; simp

theorem Mnemonic.eq_of_matchesWord {m n : Mnemonic} {w : Word} (hm : m.matchesWord w = true)
    (hn : n.matchesWord w = true) : m = n := by
  rw [Mnemonic.matchesWord_iff] at hm hn
  refine Mnemonic.eq_of_matchValue_and_mask m m.mem_all n n.mem_all ?_
  rw [← hm, ← hn, BitVec.and_assoc, BitVec.and_comm m.mask, BitVec.and_assoc]

/-- A word that matches a row reads as that row's instruction, unless it is a branch of an odd displacement. -/
theorem decodeWord_of_matchesWord {m : Mnemonic} {w : Word} (hm : m.matchesWord w = true)
    (hb : m.format = .b → dispB w % 4 = 0) : decodeWord w = .instr (m.instr (unpackOperands m.format w)) := by
  have hfind : Mnemonic.all.find? (fun n => n.matchesWord w) = some m := by
    cases hf : Mnemonic.all.find? (fun n => n.matchesWord w) with
    | none => exact absurd hm (List.find?_eq_none.mp hf m m.mem_all)
    | some n =>
      have hn : n.matchesWord w = true := by simpa using List.find?_some hf
      rw [Mnemonic.eq_of_matchesWord hn hm]
  have hdisp : ¬ (m.format = .b ∧ dispB w % 4 ≠ 0) := fun h => h.2 (hb h.1)
  rw [decodeWord, hfind]
  exact if_neg hdisp

/-! ## Packing a word -/

section Pack

variable {m : Mnemonic} (p q r : Int)

theorem packWord_r (hm : m.format = .r) : packWord m p q r =
    wordOfFields m.row.funct7 (BitVec.ofInt 5 r) (BitVec.ofInt 5 q) m.row.funct3 (BitVec.ofInt 5 p) m.row.opcode := by
  simp only [packWord, hm]
  rfl

theorem packWord_iShift (hm : m.format = .iShift) : packWord m p q r =
    wordOfFields m.row.funct7 (BitVec.ofInt 5 r) (BitVec.ofInt 5 q) m.row.funct3 (BitVec.ofInt 5 p) m.row.opcode := by
  simp only [packWord, hm]
  rfl

theorem packWord_i (hm : m.format = .i) : packWord m p q r =
    wordOfFields ((BitVec.ofInt 12 r).extractLsb' 5 7) ((BitVec.ofInt 12 r).extractLsb' 0 5) (BitVec.ofInt 5 q)
      m.row.funct3 (BitVec.ofInt 5 p) m.row.opcode := by
  have hsplit : (BitVec.ofInt 12 r).extractLsb' 5 7 ++ (BitVec.ofInt 12 r).extractLsb' 0 5 = BitVec.ofInt 12 r :=
    BitVec.extractLsb'_append_extractLsb' (w := 7)
  simp only [packWord, hm]
  rw [wordOfFields, hsplit]

theorem packWord_s (hm : m.format = .s) : packWord m p q r =
    wordOfFields ((BitVec.ofInt 12 r).extractLsb' 5 7) (BitVec.ofInt 5 p) (BitVec.ofInt 5 q) m.row.funct3
      ((BitVec.ofInt 12 r).extractLsb' 0 5) m.row.opcode := by
  simp only [packWord, hm]
  rfl

/-- The displacement's bits 12 and 10 to 5 stand in the high field, its bits 4 to 1 and 11 in the low one. -/
theorem packWord_b (hm : m.format = .b) : packWord m p q r =
    wordOfFields ((BitVec.ofInt 13 (4 * r)).extractLsb' 12 1 ++ (BitVec.ofInt 13 (4 * r)).extractLsb' 5 6)
      (BitVec.ofInt 5 q) (BitVec.ofInt 5 p) m.row.funct3
      ((BitVec.ofInt 13 (4 * r)).extractLsb' 1 4 ++ (BitVec.ofInt 13 (4 * r)).extractLsb' 11 1) m.row.opcode := by
  have hassoc (x : BitVec 20) (y : BitVec 4) (z : BitVec 1) : x ++ y ++ z = x ++ (y ++ z) := BitVec.append_assoc
  simp only [packWord, hm]
  exact congrArg (· ++ m.row.opcode) (hassoc ..)

/-- Packing fills the row's own fixed bits. -/
theorem matchesWord_packWord : m.matchesWord (packWord m p q r) = true := by
  cases hm : m.format with
  | r => rw [packWord_r p q r hm]; exact Mnemonic.matchesWord_of_fields (by simp) (by simp) (by simp)
  | i => rw [packWord_i p q r hm]; exact Mnemonic.matchesWord_of_fields (by simp) (by simp) (by simp [hm])
  | iShift => rw [packWord_iShift p q r hm]; exact Mnemonic.matchesWord_of_fields (by simp) (by simp) (by simp)
  | s => rw [packWord_s p q r hm]; exact Mnemonic.matchesWord_of_fields (by simp) (by simp) (by simp [hm])
  | b => rw [packWord_b p q r hm]; exact Mnemonic.matchesWord_of_fields (by simp) (by simp) (by simp [hm])

end Pack

/-! ## Reading the fields back -/

/-- A value below 32 is read back from a five-bit field. -/
theorem toNat_ofInt_five {v : Int} (h0 : 0 ≤ v) (h1 : v ≤ 31) : ((BitVec.ofInt 5 v).toNat : Int) = v := by
  rw [BitVec.toNat_ofInt]
  omega

/-- A value in [-2048, 2047] is read back from a twelve-bit field. -/
theorem toInt_ofInt_twelve {v : Int} (h0 : -2048 ≤ v) (h1 : v ≤ 2047) : (BitVec.ofInt 12 v).toInt = v :=
  BitVec.toInt_ofInt_eq_self (by decide) (by omega) (by omega)

theorem regField_eq {w : Word} {lo : Nat} {v : Int} (h0 : 0 ≤ v) (h1 : v ≤ 31)
    (hw : w.extractLsb' lo 5 = BitVec.ofInt 5 v) : regField w lo = .int v := by
  rw [regField, hw, toNat_ofInt_five h0 h1]

/-- The twelve bits of an I-format immediate are the high field and the `rs2` field. -/
theorem immI_wordOfFields (v : BitVec 12) (rs1 : BitVec 5) (f3 : BitVec 3) (low : BitVec 5) (op : BitVec 7) :
    immI (wordOfFields (v.extractLsb' 5 7) (v.extractLsb' 0 5) rs1 f3 low op) = v.toInt := by
  rw [immI, ← BitVec.extractLsb'_append_extractLsb'_eq_extractLsb' (len₂ := 7) (len₁ := 5) (start₂ := 25) rfl]
  rw [wordOfFields_high, wordOfFields_rs2]
  exact congrArg BitVec.toInt (BitVec.extractLsb'_append_extractLsb' (w := 7))

theorem immS_wordOfFields (v : BitVec 12) (rs2 rs1 : BitVec 5) (f3 : BitVec 3) (op : BitVec 7) :
    immS (wordOfFields (v.extractLsb' 5 7) rs2 rs1 f3 (v.extractLsb' 0 5) op) = v.toInt := by
  rw [immS, wordOfFields_high, wordOfFields_low]
  exact congrArg BitVec.toInt (BitVec.extractLsb'_append_extractLsb' (w := 7))

theorem extractLsb'_extractLsb' {w k len len' : Nat} (x : BitVec w) (start : Nat) (hlen : k + len ≤ len') :
    (x.extractLsb' start len').extractLsb' k len = x.extractLsb' (start + k) len := by
  ext i hi
  simp only [BitVec.getElem_extractLsb', BitVec.getLsbD_extractLsb', Nat.add_assoc, Bool.and_eq_right_iff_imp,
    decide_eq_true_eq]
  omega

/-- The five pieces of a displacement whose lowest bit is 0, put together. -/
theorem append_displacement_bits (d : BitVec 13) (hd : d.extractLsb' 0 1 = 0) :
    d.extractLsb' 12 1 ++ d.extractLsb' 11 1 ++ d.extractLsb' 5 6 ++ d.extractLsb' 1 4 ++ (0 : BitVec 1) = d := by
  rw [← hd, BitVec.extractLsb'_append_extractLsb'_eq_extractLsb' (start₂ := 12) (start₁ := 11) rfl,
    BitVec.extractLsb'_append_extractLsb'_eq_extractLsb' (start₂ := 11) (start₁ := 5) rfl,
    BitVec.extractLsb'_append_extractLsb'_eq_extractLsb' (start₂ := 5) (start₁ := 1) rfl,
    BitVec.extractLsb'_append_extractLsb'_eq_extractLsb' (start₂ := 1) (start₁ := 0) rfl]
  exact BitVec.extractLsb'_eq_self

theorem dispB_wordOfFields (d : BitVec 13) (rs2 rs1 : BitVec 5) (f3 : BitVec 3) (op : BitVec 7)
    (hd : d.extractLsb' 0 1 = 0) :
    dispB (wordOfFields (d.extractLsb' 12 1 ++ d.extractLsb' 5 6) rs2 rs1 f3
      (d.extractLsb' 1 4 ++ d.extractLsb' 11 1) op) = d.toInt := by
  generalize hw : wordOfFields (d.extractLsb' 12 1 ++ d.extractLsb' 5 6) rs2 rs1 f3
      (d.extractLsb' 1 4 ++ d.extractLsb' 11 1) op = w
  have hhigh : w.extractLsb' 25 7 = d.extractLsb' 12 1 ++ d.extractLsb' 5 6 := by rw [← hw, wordOfFields_high]
  have hlow : w.extractLsb' 7 5 = d.extractLsb' 1 4 ++ d.extractLsb' 11 1 := by rw [← hw, wordOfFields_low]
  have h31 : w.extractLsb' 31 1 = d.extractLsb' 12 1 := by
    rw [← extractLsb'_extractLsb' (k := 6) (len' := 7) w 25 (by decide), hhigh, BitVec.extractLsb'_append_eq_left]
  have h25 : w.extractLsb' 25 6 = d.extractLsb' 5 6 := by
    rw [← extractLsb'_extractLsb' (k := 0) (len' := 7) w 25 (by decide), hhigh, BitVec.extractLsb'_append_eq_right]
  have h8 : w.extractLsb' 8 4 = d.extractLsb' 1 4 := by
    rw [← extractLsb'_extractLsb' (k := 1) (len' := 5) w 7 (by decide), hlow, BitVec.extractLsb'_append_eq_left]
  have h7 : w.extractLsb' 7 1 = d.extractLsb' 11 1 := by
    rw [← extractLsb'_extractLsb' (k := 0) (len' := 5) w 7 (by decide), hlow, BitVec.extractLsb'_append_eq_right]
  rw [dispB, h31, h25, h8, h7, append_displacement_bits d hd]

theorem thirdFits_offset {v : Int} : thirdFits .b v = true ↔ -1024 ≤ v ∧ v ≤ 1023 := by
  simp [thirdFits]

theorem thirdFits_shift {v : Int} : thirdFits .iShift v = true ↔ 0 ≤ v ∧ v ≤ 31 := by
  simp [thirdFits]

theorem thirdFits_twelve {f : Format} (hf : f = .i ∨ f = .s) {v : Int} :
    thirdFits f v = true ↔ -2048 ≤ v ∧ v ≤ 2047 := by
  rcases hf with rfl | rfl <;> simp [thirdFits]

/-- A branch word's displacement is 4 times the offset (30_encoding.md R94). -/
theorem dispB_packWord {m : Mnemonic} (p q : Int) {r : Int} (hm : m.format = .b) (hr : thirdFits m.format r = true) :
    dispB (packWord m p q r) = 4 * r := by
  rw [hm, thirdFits_offset] at hr
  have heven : (BitVec.ofInt 13 (4 * r)).extractLsb' 0 1 = 0 := by
    apply BitVec.eq_of_toNat_eq
    rw [BitVec.extractLsb'_toNat, BitVec.toNat_ofInt, Nat.shiftRight_zero]
    change (4 * r % 8192).toNat % 2 = 0
    omega
  rw [packWord_b p q r hm, dispB_wordOfFields _ _ _ _ _ heven]
  exact BitVec.toInt_ofInt_eq_self (by decide) (by omega) (by omega)

/-- Reading the fields of a packed word gives the three values back. -/
theorem unpackOperands_packWord {m : Mnemonic} {p q r : Int} (hp : 0 ≤ p ∧ p ≤ 31) (hq : 0 ≤ q ∧ q ≤ 31)
    (hr : thirdFits m.format r = true) (hreg : m.format = .r → 0 ≤ r ∧ r ≤ 31) :
    unpackOperands m.format (packWord m p q r) = [.int p, .int q, .int r] := by
  obtain ⟨hp0, hp1⟩ := hp
  obtain ⟨hq0, hq1⟩ := hq
  cases hm : m.format with
  | r =>
    obtain ⟨hr0, hr1⟩ := hreg hm
    rw [packWord_r p q r hm, unpackOperands, regField_eq hp0 hp1 (by simp), regField_eq hq0 hq1 (by simp),
      regField_eq hr0 hr1 (by simp)]
  | iShift =>
    rw [hm, thirdFits_shift] at hr
    rw [packWord_iShift p q r hm, unpackOperands, regField_eq hp0 hp1 (by simp), regField_eq hq0 hq1 (by simp),
      wordOfFields_rs2, toNat_ofInt_five hr.1 hr.2]
  | i =>
    rw [hm, thirdFits_twelve (.inl rfl)] at hr
    rw [packWord_i p q r hm, unpackOperands, regField_eq hp0 hp1 (by simp), regField_eq hq0 hq1 (by simp),
      immI_wordOfFields, toInt_ofInt_twelve hr.1 hr.2]
  | s =>
    rw [hm, thirdFits_twelve (.inr rfl)] at hr
    rw [packWord_s p q r hm, unpackOperands, regField_eq hp0 hp1 (by simp), regField_eq hq0 hq1 (by simp),
      immS_wordOfFields, toInt_ofInt_twelve hr.1 hr.2]
  | b =>
    have hdisp : dispB (packWord m p q r) / 4 = r := by rw [dispB_packWord p q hm hr]; omega
    rw [unpackOperands, hdisp, packWord_b p q r hm, regField_eq hp0 hp1 (by simp), regField_eq hq0 hq1 (by simp)]

theorem decodeWord_packWord {m : Mnemonic} {p q r : Int} (hp : 0 ≤ p ∧ p ≤ 31) (hq : 0 ≤ q ∧ q ≤ 31)
    (hr : thirdFits m.format r = true) (hreg : m.format = .r → 0 ≤ r ∧ r ≤ 31) :
    decodeWord (packWord m p q r) = .instr (m.instr [.int p, .int q, .int r]) := by
  rw [decodeWord_of_matchesWord (matchesWord_packWord p q r), unpackOperands_packWord hp hq hr hreg]
  intro hm
  rw [dispB_packWord p q hm hr]
  omega

/-! ## The domain of the encoder -/

/-- The three values the encoder packs: operands 0 and 1, and operand 2 or the class's default. -/
theorem operandTriple_eq_some_iff {c : Cls} {ops : List Operand} {p q r : Int} :
    operandTriple c ops = some (p, q, r) ↔ ops[0]? = some (.int p) ∧ ops[1]? = some (.int q) ∧
      (ops[2]? = some (.int r) ∨ ops[2]? = none ∧ c.defaultThird = some r) := by
  rcases ops with _ | ⟨_ | _, _ | ⟨_ | _, _ | ⟨_ | _, rest⟩⟩⟩ <;> simp [operandTriple]
  case int.cons.int.nil => exact and_rotate

theorem any_isReg_iff {o : Option Operand} :
    o.any Operand.isReg = true ↔ ∃ v, o = some (.int v) ∧ 0 ≤ v ∧ v ≤ 31 := by
  rcases o with _ | _ | _ <;> simp [Operand.isReg]

theorem exists_int_of_any_isImm {o : Option Operand} (h : o.any Operand.isImm = true) : ∃ v, o = some (.int v) := by
  rcases o with _ | v | _
  · simp at h
  · exact ⟨v, rfl⟩
  · simp [Operand.isImm] at h

theorem eq_none_or_int_of_all_isImm {o : Option Operand} (h : o.all Operand.isImm = true) :
    o = none ∨ ∃ v, o = some (.int v) := by
  rcases o with _ | v | _
  · exact .inl rfl
  · exact .inr ⟨v, rfl⟩
  · simp [Operand.isImm] at h

/-- The operands of a well-formed instruction give three values, registers where the class names registers. -/
theorem Instr.operandTriple_of_wellFormed {i : Instr} (hi : i.wellFormed = true) :
    ∃ p q r, operandTriple i.cls i.operands = some (p, q, r) ∧ (0 ≤ p ∧ p ≤ 31) ∧ (0 ≤ q ∧ q ≤ 31) ∧
      (i.cls = .regReg → 0 ≤ r ∧ r ≤ 31) := by
  unfold Instr.wellFormed operandsFit at hi
  cases hc : i.cls with
  | noClass => cases i <;> cases hc
  | regReg =>
    simp only [hc, Bool.and_eq_true, any_isReg_iff] at hi
    obtain ⟨⟨⟨p, hp, hpr⟩, q, hq, hqr⟩, r, hr, hrr⟩ := hi
    exact ⟨p, q, r, operandTriple_eq_some_iff.mpr ⟨hp, hq, .inl hr⟩, hpr, hqr, fun _ => hrr⟩
  | regImm =>
    simp only [hc, Bool.and_eq_true, any_isReg_iff] at hi
    obtain ⟨⟨⟨p, hp, hpr⟩, q, hq, hqr⟩, himm⟩ := hi
    obtain ⟨r, hr⟩ := exists_int_of_any_isImm himm
    exact ⟨p, q, r, operandTriple_eq_some_iff.mpr ⟨hp, hq, .inl hr⟩, hpr, hqr, nofun⟩
  | load | store | branch =>
    simp only [hc, Bool.and_eq_true, any_isReg_iff] at hi
    obtain ⟨⟨⟨p, hp, hpr⟩, q, hq, hqr⟩, himm⟩ := hi
    rcases eq_none_or_int_of_all_isImm himm with hnone | ⟨r, hr⟩
    · exact ⟨p, q, _, operandTriple_eq_some_iff.mpr ⟨hp, hq, .inr ⟨hnone, rfl⟩⟩, hpr, hqr, nofun⟩
    · exact ⟨p, q, r, operandTriple_eq_some_iff.mpr ⟨hp, hq, .inl hr⟩, hpr, hqr, nofun⟩

theorem encode_eq_some_iff {i : Instr} {w : Word} : encode i = some w ↔ i.wellFormed = true ∧
    ∃ p q r, operandTriple i.cls i.operands = some (p, q, r) ∧ thirdFits i.mnemonic.format r = true ∧
      packWord i.mnemonic p q r = w := by
  unfold encode
  cases i.wellFormed with
  | false => simp
  | true =>
    rcases operandTriple i.cls i.operands with _ | ⟨p, q, r⟩
    · simp
    · simp

/-- A default offset fits the field of its format (30_encoding.md R83, R95). -/
theorem thirdFits_of_defaultThird {i : Instr} {r : Int} (hr : i.cls.defaultThird = some r) :
    thirdFits i.mnemonic.format r = true := by
  cases i <;> cases hr <;> rfl

/-- An instruction has a word exactly when it is well-formed and its third operand, where present, fits its field. -/
theorem encode_isSome_iff (i : Instr) : (encode i).isSome = true ↔
    i.wellFormed = true ∧ ∀ v, i.operands[2]? = some (.int v) → thirdFits i.mnemonic.format v = true := by
  rw [Option.isSome_iff_exists]
  simp only [encode_eq_some_iff]
  constructor
  · rintro ⟨w, hwf, p, q, r, htriple, hfit, -⟩
    refine ⟨hwf, fun v hv => ?_⟩
    obtain ⟨-, -, hr | ⟨hnone, -⟩⟩ := operandTriple_eq_some_iff.mp htriple
    · rw [hv, Option.some.injEq, Operand.int.injEq] at hr
      rwa [hr]
    · rw [hv] at hnone
      cases hnone
  · rintro ⟨hwf, hthird⟩
    obtain ⟨p, q, r, htriple, -⟩ := Instr.operandTriple_of_wellFormed hwf
    refine ⟨_, hwf, p, q, r, htriple, ?_, rfl⟩
    obtain ⟨-, -, hr | ⟨-, hdefault⟩⟩ := operandTriple_eq_some_iff.mp htriple
    · exact hthird r hr
    · exact thirdFits_of_defaultThird hdefault

theorem Instr.cls_of_format_r {i : Instr} (hi : i.mnemonic.format = .r) : i.cls = .regReg := by
  have hrow : ∀ m ∈ Mnemonic.all, m.format = .r → classOf m.row.opcode = .regReg := by decide
  rw [Instr.cls_eq_classOf]
  exact hrow _ i.mnemonic.mem_all hi

theorem Cls.defaultThird_eq_some {c : Cls} {r : Int} (hr : c.defaultThird = some r) :
    (c = .load ∨ c = .store) ∧ r = 0 ∨ c = .branch ∧ r = 1 := by
  cases c <;> simp_all [Cls.defaultThird, Config.defaultMemOffset, Config.defaultBranchOffset, eq_comm]

/-- A word an instruction encodes to reads as the instruction of its three values. -/
theorem decodeWord_of_encode {i : Instr} {w : Word} (h : encode i = some w) : ∃ p q r,
    decodeWord w = .instr (i.mnemonic.instr [.int p, .int q, .int r]) ∧
    operandTriple i.cls i.operands = some (p, q, r) := by
  obtain ⟨hwf, p, q, r, htriple, hfit, rfl⟩ := encode_eq_some_iff.mp h
  obtain ⟨p', q', r', htriple', hp, hq, hreg⟩ := Instr.operandTriple_of_wellFormed hwf
  cases htriple.symm.trans htriple'
  exact ⟨p, q, r, decodeWord_packWord hp hq hfit fun hr => hreg (Instr.cls_of_format_r hr), htriple⟩

/-- Settles O1: every format lays its fields out where reading takes them from, and the word's fixed bits select the
row. -/
theorem encodedWordDecodesBack : Obligations.EncodedWordDecodesBack := by
  refine ⟨fun i w h => ?_, fun i => (encode_isSome_iff i).trans (and_congr_right fun _ => ?_)⟩
  · obtain ⟨p, q, r, hdecode, htriple⟩ := decodeWord_of_encode h
    obtain ⟨hp, hq, hr⟩ := operandTriple_eq_some_iff.mp htriple
    exact ⟨p, q, r, hdecode, hp, hq, hr.imp_right fun ⟨hnone, hdefault⟩ => ⟨hnone, Cls.defaultThird_eq_some hdefault⟩⟩
  · cases i.mnemonic.format <;> simp [thirdFits]

/-- Settles O3: the fixed bits of two rows that match one word agree where both masks cover them. -/
theorem tableRowsArePairwiseDisjoint : Obligations.TableRowsArePairwiseDisjoint :=
  fun _ _ _ => Mnemonic.eq_of_matchesWord

/-- Settles O4: each word has its row's fixed bits, and the two others have no row's or a displacement of 2. -/
theorem specWordsDecode : Obligations.SpecWordsDecode := by
  unfold Obligations.SpecWordsDecode
  decide

end Sys2Proof
end

section
/-! The Decoder on a rendered text (40_decoder.md R110 to R120): what trimming, lower-casing, comma deletion and
splitting do to tokens of plain characters, and that each rendered operand token is read back. -/

namespace Sys2Proof

/-! ## Plain tokens -/

/-- A character the tokenizer keeps as it stands and that opens no parenthesised operand. -/
def PlainChar (c : Char) : Prop := isSpace c = false ∧ lowerChar c = [c] ∧ c ≠ ',' ∧ c ≠ '('

/-- A token the tokenizer keeps as it stands. -/
def PlainToken (t : Text) : Prop := t ≠ [] ∧ ∀ c ∈ t, PlainChar c

theorem PlainToken.cons {c : Char} {t : Text} (hc : PlainChar c) (ht : PlainToken t) : PlainToken (c :: t) :=
  ⟨List.cons_ne_nil c t, List.forall_mem_cons.mpr ⟨hc, ht.2⟩⟩

theorem PlainToken.append {t u : Text} (ht : PlainToken t) (hu : PlainToken u) : PlainToken (t ++ u) :=
  ⟨List.append_ne_nil_of_left_ne_nil ht.1 u, List.forall_mem_append.mpr ⟨ht.2, hu.2⟩⟩

theorem Mnemonic.row_name_plain (m : Mnemonic) : PlainToken m.row.name := by
  have hall : ∀ m ∈ Mnemonic.all, m.row.name.all
      (fun c => !isSpace c && decide (lowerChar c = [c]) && decide (c ≠ ',') && decide (c ≠ '(')) = true := by
    decide
  refine ⟨m.row_name_ne_nil, fun c hc => ?_⟩
  simpa [PlainChar, and_assoc] using List.all_eq_true.mp (hall m m.mem_all) c hc

/-! ## Tokenizing plain tokens -/

theorem dropWhile_isSpace_plain {t : Text} (ht : PlainToken t) (rest : Text) :
    (t ++ rest).dropWhile isSpace = t ++ rest := by
  obtain ⟨hne, hplain⟩ := ht
  cases t with
  | nil => exact absurd rfl hne
  | cons c cs =>
    obtain ⟨hspace, -⟩ := hplain c List.mem_cons_self
    simp [hspace]

theorem PlainToken.reverse {t : Text} (ht : PlainToken t) : PlainToken t.reverse :=
  ⟨fun h => ht.1 (List.reverse_eq_nil_iff.mp h), fun c hc => ht.2 c (List.mem_reverse.mp hc)⟩

/-- A text that begins and ends in a plain token has nothing to trim. -/
theorem trimText_eq_self {t u v w : Text} (ht : PlainToken t) (hu : PlainToken u) (h : t ++ v = w ++ u) :
    trimText (t ++ v) = t ++ v := by
  have hrev : (t ++ v).reverse.dropWhile isSpace = (t ++ v).reverse := by
    rw [h, List.reverse_append]
    exact dropWhile_isSpace_plain hu.reverse _
  rw [trimText, dropWhile_isSpace_plain ht, hrev, List.reverse_reverse]

/-- Lower-casing and comma deletion, the part of `normalise` that works character by character. -/
def foldChars (t : Text) : Text := (t.flatMap lowerChar).filter (fun c => decide (c ≠ ','))

theorem foldChars_append (t u : Text) : foldChars (t ++ u) = foldChars t ++ foldChars u := by
  simp [foldChars]

theorem foldChars_plain {t : Text} (ht : ∀ c ∈ t, PlainChar c) : foldChars t = t := by
  induction t with
  | nil => rfl
  | cons c cs ih =>
    obtain ⟨⟨-, hlower, hcomma, -⟩, hcs⟩ := List.forall_mem_cons.mp ht
    have hc : foldChars [c] = [c] := by simp [foldChars, hlower, hcomma]
    rw [← List.singleton_append, foldChars_append, hc, ih hcs]

theorem splitAux_plain {t : Text} (ht : ∀ c ∈ t, PlainChar c) (cur rest : Text) :
    splitAux cur (t ++ rest) = splitAux (cur ++ t) rest := by
  induction t generalizing cur with
  | nil => simp
  | cons c cs ih =>
    obtain ⟨⟨hspace, -⟩, hcs⟩ := List.forall_mem_cons.mp ht
    simp [splitAux, hspace, ih hcs]

/-- Plain tokens with a space before each but the first are split at the spaces. -/
theorem splitAux_tokens {t : Text} {ts : List Text} (ht : PlainToken t) (hts : ∀ u ∈ ts, PlainToken u) :
    splitAux [] (t ++ ts.flatMap (' ' :: ·)) = t :: ts := by
  induction ts generalizing t with
  | nil =>
    rw [splitAux_plain ht.2]
    simp [splitAux, ht.1]
  | cons u us ih =>
    obtain ⟨hu, hus⟩ := List.forall_mem_cons.mp hts
    have hspace : isSpace ' ' = true := by decide
    rw [splitAux_plain ht.2, List.flatMap_cons, List.cons_append, List.nil_append, splitAux, if_pos hspace,
      if_neg (by simp [ht.1]), ih hu hus]

/-! ## Numbers -/

/-- The characters of a rendered number, as its readers see them. -/
theorem digitChar_spec : ∀ n < 10, digitValue (digitChar n) = some n ∧
    (isSpace (digitChar n) = false ∧ lowerChar (digitChar n) = [digitChar n] ∧ digitChar n ≠ ',' ∧ digitChar n ≠ '(') ∧
    digitChar n ≠ 'x' ∧ digitChar n ≠ '-' ∧ digitChar n ≠ '+' := by
  decide

theorem digitsAux_append (acc : Nat) (t u : Text) :
    digitsAux acc (t ++ u) = (digitsAux acc t).bind (digitsAux · u) := by
  induction t generalizing acc with
  | nil => rfl
  | cons c cs ih =>
    cases hc : digitValue c with
    | none => simp [digitsAux, hc]
    | some d => simp [digitsAux, hc, ih]

theorem digitsAux_digitChar (acc : Nat) {n : Nat} (hn : n < 10) :
    digitsAux acc [digitChar n] = some (acc * 10 + n) := by
  simp [digitsAux, (digitChar_spec n hn).1]

/-- Each digit divides the number by ten, so a fuel of its binary length is enough. -/
theorem digitsAux_showNatAux {fuel n : Nat} (hn : n < 2 ^ fuel) : digitsAux 0 (showNatAux fuel n) = some n := by
  induction fuel generalizing n with
  | zero =>
    have hzero : n = 0 := by omega
    rw [hzero]; rfl
  | succ fuel ih =>
    rw [showNatAux]
    split
    · rename_i hlt
      simpa using digitsAux_digitChar 0 hlt
    · have hdiv : n / 10 < 2 ^ fuel := by omega
      rw [digitsAux_append, ih hdiv, Option.bind_some, digitsAux_digitChar _ (Nat.mod_lt n (by decide)),
        Nat.div_add_mod' n 10]

/-- A nonempty run of decimal digits. -/
def DigitToken (t : Text) : Prop := t ≠ [] ∧ ∀ c ∈ t, ∃ k < 10, c = digitChar k

theorem mem_showNatAux {fuel n : Nat} {c : Char} (hc : c ∈ showNatAux fuel n) : ∃ k < 10, c = digitChar k := by
  induction fuel generalizing n with
  | zero => cases hc
  | succ fuel ih =>
    rw [showNatAux] at hc
    split at hc
    · rename_i hlt
      exact ⟨n, hlt, List.mem_singleton.mp hc⟩
    · rcases List.mem_append.mp hc with hinit | hlast
      · exact ih hinit
      · exact ⟨n % 10, Nat.mod_lt n (by decide), List.mem_singleton.mp hlast⟩

theorem showNat_digits (n : Nat) : DigitToken (showNat n) := by
  refine ⟨?_, fun c hc => mem_showNatAux hc⟩
  rw [showNat, showNatAux]
  split <;> simp

theorem DigitToken.plain {t : Text} (ht : DigitToken t) : PlainToken t := by
  refine ⟨ht.1, fun c hc => ?_⟩
  obtain ⟨k, hk, rfl⟩ := ht.2 c hc
  exact (digitChar_spec k hk).2.1

theorem parseNat_showNat (n : Nat) : parseNat (showNat n) = some n := by
  rw [parseNat, if_neg (by simp [(showNat_digits n).1])]
  exact digitsAux_showNatAux Nat.lt_log2_self

/-- A token that begins with a digit is read as an unsigned number. -/
theorem parseOperand_digits {t : Text} (ht : DigitToken t) {n : Nat} (hn : parseNat t = some n) :
    parseOperand t = .int n := by
  obtain ⟨hne, hdigits⟩ := ht
  cases t with
  | nil => exact absurd rfl hne
  | cons c cs =>
    obtain ⟨k, hk, rfl⟩ := hdigits c List.mem_cons_self
    obtain ⟨-, -, hx, hminus, hplus⟩ := digitChar_spec k hk
    simp [parseOperand, parseInt, hx, hminus, hplus, hn]

/-! ## Operand tokens -/

/-- The three forms of an operand token: a register, a negative number, another number (40_decoder.md R115, R116). -/
theorem showOperand_int (isRegister : Bool) (v : Int) :
    (0 ≤ v ∧ showOperand isRegister (.int v) = 'x' :: showNat v.natAbs) ∨
    (v < 0 ∧ showOperand isRegister (.int v) = '-' :: showNat v.natAbs) ∨
    (0 ≤ v ∧ showOperand isRegister (.int v) = showNat v.natAbs) := by
  rcases lt_or_ge v 0 with hv | hv
  · exact .inr (.inl ⟨hv, by simp [showOperand, showInt, hv, not_le.mpr hv]⟩)
  · cases isRegister with
    | true => exact .inl ⟨hv, by simp [showOperand, hv]⟩
    | false => exact .inr (.inr ⟨hv, by simp [showOperand, showInt, not_lt.mpr hv]⟩)

theorem showOperand_plain (isRegister : Bool) (o : Operand) : PlainToken (showOperand isRegister o) := by
  have hx : PlainChar 'x' := by unfold PlainChar; decide
  have hminus : PlainChar '-' := by unfold PlainChar; decide
  have hbad : PlainChar '?' := by unfold PlainChar; decide
  cases o with
  | bad => exact ⟨List.cons_ne_nil _ _, List.forall_mem_singleton.mpr hbad⟩
  | int v =>
    have hdigits := (showNat_digits v.natAbs).plain
    rcases showOperand_int isRegister v with ⟨-, h⟩ | ⟨-, h⟩ | ⟨-, h⟩ <;> rw [h]
    · exact hdigits.cons hx
    · exact hdigits.cons hminus
    · exact hdigits

theorem parseOperand_showOperand (isRegister : Bool) (o : Operand) : parseOperand (showOperand isRegister o) = o := by
  cases o with
  | bad => rfl
  | int v =>
    have hread := parseNat_showNat v.natAbs
    rcases showOperand_int isRegister v with ⟨hv, h⟩ | ⟨hv, h⟩ | ⟨hv, h⟩ <;> rw [h]
    · simp [parseOperand, hread, abs_of_nonneg hv]
    · simp [parseOperand, parseInt, hread, abs_of_neg hv]
    · rw [parseOperand_digits (showNat_digits _) hread, Int.natAbs_of_nonneg hv]

/-- A token without an opening parenthesis is no parenthesised operand (40_decoder.md R120). -/
theorem parseParen_plain {t : Text} (ht : ∀ c ∈ t, PlainChar c) : parseParen t = none := by
  have hdrop : t.dropWhile (fun c => decide (c ≠ '(')) = [] := by
    rw [List.dropWhile_eq_nil_iff]
    intro c hc
    obtain ⟨-, -, -, hparen⟩ := ht c hc
    simpa using hparen
  rw [parseParen, hdrop]

theorem operandsOfToken_showOperand (paren isRegister : Bool) (o : Operand) :
    operandsOfToken paren (showOperand isRegister o) = [o] := by
  have hparen := parseParen_plain (showOperand_plain isRegister o).2
  cases paren <;> simp [operandsOfToken, hparen, parseOperand_showOperand]

/-! ## A rendered instruction -/

/-- The operand tokens of a rendered instruction, from position `k` on. -/
def operandTokens (c : Cls) : Nat → List Operand → List Text
  | _, [] => []
  | k, o :: os => showOperand (c.isRegisterAt k) o :: operandTokens c (k + 1) os

theorem operandTokens_plain (c : Cls) (k : Nat) (ops : List Operand) : ∀ t ∈ operandTokens c k ops, PlainToken t := by
  induction ops generalizing k with
  | nil => exact fun t ht => absurd ht List.not_mem_nil
  | cons o os ih => exact List.forall_mem_cons.mpr ⟨showOperand_plain _ o, ih (k + 1)⟩

theorem flatMap_operandsOfToken (paren : Bool) (c : Cls) (k : Nat) (ops : List Operand) :
    (operandTokens c k ops).flatMap (operandsOfToken paren) = ops := by
  induction ops generalizing k with
  | nil => rfl
  | cons o os ih => rw [operandTokens, List.flatMap_cons, operandsOfToken_showOperand, ih, List.singleton_append]

/-- Deleting the commas leaves the tokens with a space before each. -/
theorem foldChars_showOperands (c : Cls) (k : Nat) (ops : List Operand) :
    foldChars (showOperands c k ops) = (operandTokens c k ops).flatMap (' ' :: ·) := by
  have hspace : foldChars [' '] = [' '] := by decide
  have hcomma : foldChars [','] = [] := by decide
  fun_induction showOperands c k ops with
  | case1 => rfl
  | case2 k o =>
    rw [← List.singleton_append, foldChars_append, hspace, foldChars_plain (showOperand_plain _ o).2]
    simp [operandTokens]
  | case3 k o o' os ih =>
    rw [← List.singleton_append, foldChars_append, foldChars_append, ← List.singleton_append (l := showOperands ..),
      foldChars_append, hspace, hcomma, ih, foldChars_plain (showOperand_plain _ o).2]
    simp [operandTokens]

/-- Operands, where there are any, end in a plain token. -/
theorem showOperands_ends_plain (c : Cls) (k : Nat) (o : Operand) (os : List Operand) :
    ∃ w u, showOperands c k (o :: os) = w ++ u ∧ PlainToken u := by
  induction os generalizing k o with
  | nil => exact ⟨[' '], _, rfl, showOperand_plain (c.isRegisterAt k) o⟩
  | cons o' os ih =>
    obtain ⟨w, u, h, hu⟩ := ih (k + 1) o'
    refine ⟨' ' :: (showOperand (c.isRegisterAt k) o ++ ',' :: w), u, ?_, hu⟩
    rw [showOperands, h]
    simp

theorem normalise_eq_foldChars (t : Text) : normalise t = foldChars (trimText t) := rfl

theorem trimText_text (i : Instr) : trimText i.text = i.text := by
  have hname := i.mnemonic.row_name_plain
  rw [Instr.text]
  cases hops : i.operands with
  | nil => exact trimText_eq_self (w := []) hname hname (List.append_nil _)
  | cons o os =>
    obtain ⟨w, u, h, hu⟩ := showOperands_ends_plain i.cls 0 o os
    exact trimText_eq_self (w := i.mnemonic.row.name ++ w) hname hu (by rw [h, List.append_assoc])

theorem tokenize_text (i : Instr) : tokenize i.text = i.mnemonic.row.name :: operandTokens i.cls 0 i.operands := by
  rw [tokenize, normalise_eq_foldChars, trimText_text, Instr.text, foldChars_append,
    foldChars_plain i.mnemonic.row_name_plain.2, foldChars_showOperands]
  exact splitAux_tokens i.mnemonic.row_name_plain (operandTokens_plain i.cls 0 i.operands)

/-! ## The record of a text -/

/-- The Decoder on a text whose first token is a key of the table (40_decoder.md R119). -/
theorem decode_of_tokenize {t : Text} {m : Mnemonic} {ts : List Text} (ht : tokenize t = m.row.name :: ts) :
    decode t = { mnemonic := m.row.name, operands := ts.flatMap (operandsOfToken (classOf m.row.opcode).paren),
                 opcode := m.row.opcode, funct3 := m.row.funct3, funct7 := m.row.funct7 } := by
  simp [decode, ht, lookupMnemonic_name]

theorem decode_text (i : Instr) :
    decode i.text = { mnemonic := i.mnemonic.row.name, operands := i.operands, opcode := i.mnemonic.row.opcode,
                      funct3 := i.mnemonic.row.funct3, funct7 := i.mnemonic.row.funct7 } := by
  rw [decode_of_tokenize (tokenize_text i), flatMap_operandsOfToken]

/-- Settles O2: rendering separates the tokens by single spaces, and each operand token is read back. -/
theorem renderedTextDecodesBack : Obligations.RenderedTextDecodesBack := by
  intro i
  rw [decode_text]
  exact ⟨by simp [Record.instr, lookupMnemonic_name], rfl, rfl, rfl, rfl, rfl⟩

/-- Settles O5: each text's tokens, row and operands are computed by the Decoder itself. -/
theorem specTextsDecode : Obligations.SpecTextsDecode := by
  unfold Obligations.SpecTextsDecode Machine.DecodesTo
  decide

end Sys2Proof
end

section
/-! The Decoder on capitals (40_decoder.md R112, R113), and a text whose mnemonic is no key of the table
(47_unknown_and_system.md R270, R271). -/

namespace Sys2Proof

open Machine (upperAscii)

/-! ## Capitals -/

/-- A capital is no more a white space than its small letter, and has the same lower-case form. -/
theorem upperAscii_spec (c : Char) : isSpace (upperAscii c) = isSpace c ∧ lowerChar (upperAscii c) = lowerChar c := by
  have hletters : ∀ n < 123, 97 ≤ n → isSpace (Char.ofNat (n - 32)) = isSpace (Char.ofNat n) ∧
      lowerChar (Char.ofNat (n - 32)) = lowerChar (Char.ofNat n) := by
    decide
  unfold upperAscii
  split
  · rename_i hc
    simpa using hletters c.toNat (by omega) hc.1
  · exact ⟨rfl, rfl⟩

theorem trimText_map_upperAscii (t : Text) : trimText (t.map upperAscii) = (trimText t).map upperAscii := by
  have hspace : isSpace ∘ upperAscii = isSpace := funext fun c => (upperAscii_spec c).1
  simp [trimText, List.dropWhile_map, ← List.map_reverse, hspace]

theorem normalise_map_upperAscii (t : Text) : normalise (t.map upperAscii) = normalise t := by
  have hlower : ∀ c, lowerChar (upperAscii c) = lowerChar c := fun c => (upperAscii_spec c).2
  simp only [normalise, trimText_map_upperAscii, List.flatMap_map, hlower]

/-- The Decoder reads nothing of a text but its tokens. -/
theorem decode_eq_of_tokenize_eq {t u : Text} (h : tokenize t = tokenize u) : decode t = decode u := by
  rw [decode, decode, h]

/-- Settles O7: the tokens are split from the lower-cased text. -/
theorem upperCaseTextDecodesAlike : Obligations.UpperCaseTextDecodesAlike :=
  fun t _ => decode_eq_of_tokenize_eq (by rw [tokenize, tokenize, normalise_map_upperAscii])

/-! ## Mnemonics outside the table -/

theorem Record.instr_eq_none {r : Record} (hr : ∀ m : Mnemonic, r.mnemonic ≠ m.row.name) : r.instr = none := by
  have hlookup : lookupMnemonic r.mnemonic = none :=
    Option.eq_none_iff_forall_ne_some.mpr fun m h => hr m (lookupMnemonic_some h).symm
  rw [Record.instr, hlookup, Option.map_none]

end Sys2Proof

namespace Sys2Proof.Machine

theorem State.fallThrough_effect (s : State) :
    KeepsRegs s s.fallThrough ∧ KeepsMem s s.fallThrough ∧ Advances s s.fallThrough (s.pc + 1) :=
  ⟨fun _ => rfl, fun _ => rfl, rfl, ⟨s.entry, rfl, rfl⟩, rfl, rfl⟩

/-- Settles O9: such a text has no instruction, and the fall-through changes `pc`, `log` and `last` only. -/
theorem unknownMnemonicFallsThrough : Obligations.UnknownMnemonicFallsThrough := by
  intro s text hf hm
  have hentry : s.entry = { pcBefore := s.pc, text := text } := by
    rw [State.entry, State.currentText_of_fetch hf]
  obtain ⟨hregs, hmem, hadv⟩ := s.fallThrough_effect
  refine ⟨_, step_of_instr_none hf (Record.instr_eq_none hm), hregs, hmem, hadv, ?_, ?_⟩
  · rw [State.fallThrough_log, hentry]
  · rw [State.fallThrough_last, hentry]
    rfl

end Sys2Proof.Machine
end

section
/-! The ALU against the integer formulas of 41_alu.md R142, function by function on words, and the R-class and I-class
instructions whose formulas it computes (43_r_class.md, 44_i_class.md). -/

namespace Sys2Proof.Machine

/-! ## The ALU's functions on words -/

theorem toInt_add_word (p q : Word) : (p + q).toInt = wrapInt (p.toInt + q.toInt) :=
  BitVec.toInt_add p q

theorem toInt_sub_word (p q : Word) : (p - q).toInt = wrapInt (p.toInt - q.toInt) :=
  BitVec.toInt_sub

/-- A left shift is a product with a power of two (41_alu.md R142). -/
theorem toInt_shiftLeft_word (p : Word) (n : Nat) : (p <<< n).toInt = wrapInt (p.toInt * 2 ^ n) := by
  rw [BitVec.toInt_shiftLeft, toInt_eq_wrapInt_toNat p, wrapInt, wrapInt, Int.bmod_mul_bmod, Nat.shiftLeft_eq]
  push_cast
  rfl

/-- An arithmetic right shift is a floor division by a power of two. -/
theorem toInt_sshiftRight_word (p : Word) (n : Nat) : (p.sshiftRight n).toInt = p.toInt / 2 ^ n := by
  rw [BitVec.toInt_sshiftRight, Int.shiftRight_eq_div_pow]
  norm_num

theorem toInt_ushiftRight_word (p : Word) (n : Nat) :
    (p >>> n).toInt = wrapInt ((u32 p.toInt / 2 ^ n : Nat) : Int) := by
  rw [toInt_eq_wrapInt_toNat, BitVec.toNat_ushiftRight, Nat.shiftRight_eq_div_pow, u32_toInt]

theorem toInt_boolWord (c : Bool) : (boolWord c).toInt = truth (c = true) := by
  cases c <;> rfl

theorem toInt_slt_word (p q : Word) : (boolWord (p.slt q)).toInt = truth (p.toInt < q.toInt) := by
  simp only [toInt_boolWord, truth, BitVec.slt, decide_eq_true_eq]

theorem toInt_ult_word (p q : Word) : (boolWord (p.ult q)).toInt = truth (u32 p.toInt < u32 q.toInt) := by
  simp only [toInt_boolWord, truth, BitVec.ult, decide_eq_true_eq, u32_toInt]

theorem toInt_xor_word (p q : Word) : (p ^^^ q).toInt = wrapInt ((u32 p.toInt ^^^ u32 q.toInt : Nat) : Int) := by
  rw [toInt_eq_wrapInt_toNat, BitVec.toNat_xor, u32_toInt, u32_toInt]

theorem toInt_or_word (p q : Word) : (p ||| q).toInt = wrapInt ((u32 p.toInt ||| u32 q.toInt : Nat) : Int) := by
  rw [toInt_eq_wrapInt_toNat, BitVec.toNat_or, u32_toInt, u32_toInt]

theorem toInt_and_word (p q : Word) : (p &&& q).toInt = wrapInt ((u32 p.toInt &&& u32 q.toInt : Nat) : Int) := by
  rw [toInt_eq_wrapInt_toNat, BitVec.toNat_and, u32_toInt, u32_toInt]

theorem shiftAmount_eq_u32 (q : Word) : shiftAmount q = u32 q.toInt % 32 := by
  rw [shiftAmount_eq, u32_toInt]

/-! ## The ALU -/

/-- The eight functions of R142 are all there are. -/
theorem funct3_cases : ∀ funct3 : BitVec 3, funct3 = 0 ∨ funct3 = 1 ∨ funct3 = 2 ∨ funct3 = 3 ∨ funct3 = 4 ∨
    funct3 = 5 ∨ funct3 = 6 ∨ funct3 = 7 := by
  decide

/-- The ALU's result is the value of its formula, for all fields and operands (41_alu.md R142). -/
theorem alu_toInt (funct3 : BitVec 3) (funct7 : BitVec 7) (a b : Int) :
    (alu funct3 funct7 a b).toInt = aluFormula funct3 funct7 a b := by
  unfold alu aluFormula
  rw [← toInt_wrap32 a, ← toInt_wrap32 b]
  generalize wrap32 a = p
  generalize wrap32 b = q
  dsimp only
  rw [← shiftAmount_eq_u32]
  rcases funct3_cases funct3 with rfl | rfl | rfl | rfl | rfl | rfl | rfl | rfl <;>
    simp only [BitVec.ofNat_eq_ofNat, BitVec.reduceToNat, isAlternate, decide_eq_true_eq]
  · split_ifs
    · exact toInt_sub_word p q
    · exact toInt_add_word p q
  · exact toInt_shiftLeft_word p _
  · exact toInt_slt_word p q
  · exact toInt_ult_word p q
  · exact toInt_xor_word p q
  · split_ifs
    · exact toInt_sshiftRight_word p _
    · exact toInt_ushiftRight_word p _
  · exact toInt_or_word p q
  · exact toInt_and_word p q

/-- Settles O55: each of the ALU's functions on words is its formula on the words' values. -/
theorem aluMeetsIntegerFormulas : Obligations.AluMeetsIntegerFormulas :=
  alu_toInt

/-! The bitwise formulas are named, so that the kernel compares them and does not evaluate them. -/

theorem aluFormula_xor (funct7 : BitVec 7) (a b : Int) :
    aluFormula 4 funct7 a b = wrapInt ((u32 (wrapInt a) ^^^ u32 (wrapInt b) : Nat) : Int) := by
  simp [aluFormula]

theorem aluFormula_or (funct7 : BitVec 7) (a b : Int) :
    aluFormula 6 funct7 a b = wrapInt ((u32 (wrapInt a) ||| u32 (wrapInt b) : Nat) : Int) := by
  simp [aluFormula]

theorem aluFormula_and (funct7 : BitVec 7) (a b : Int) :
    aluFormula 7 funct7 a b = wrapInt ((u32 (wrapInt a) &&& u32 (wrapInt b) : Nat) : Int) := by
  simp [aluFormula]

/-! ## Instructions whose operands need no coercion -/

/-- An instruction that is the R step with its own row's fields has the result `f` where the ALU's formula is `f` of the
coerced operands, since a register's value is its own coercion. -/
theorem rResult_of_formula {m : Mnemonic} {f : Int → Int → Int}
    (hexec : ∀ ops s, exec (m.instr ops) s = runR m.row.funct3 m.row.funct7 ops s)
    (hformula : ∀ a b, aluFormula m.row.funct3 m.row.funct7 a b = f (wrapInt a) (wrapInt b)) :
    RResult m m.row.funct3 m.row.funct7 f := by
  refine ⟨rfl, rfl, fun s rd rs1 rs2 rest => ?_⟩
  have hvalue : (alu m.row.funct3 m.row.funct7 (s.x rs1) (s.x rs2)).toInt = f (s.x rs1) (s.x rs2) := by
    rw [alu_toInt, hformula, wrapInt_x, wrapInt_x]
  rw [hexec, ← hvalue]
  exact runR_regs ..

/-- The same of the I step: an immediate in IMM_RANGE is its own coercion too. -/
theorem iResult_of_formula {m : Mnemonic} {f : Int → Int → Int}
    (hexec : ∀ ops s, exec (m.instr ops) s = runI m.row.funct3 m.row.funct7 ops s)
    (hformula : ∀ a b, aluFormula m.row.funct3 m.row.funct7 a b = f (wrapInt a) (wrapInt b)) :
    IResult m m.row.funct3 m.row.funct7 f := by
  refine ⟨rfl, rfl, fun s rd rs1 imm rest himm => ?_⟩
  have hvalue : (alu m.row.funct3 m.row.funct7 (s.x rs1) imm).toInt = f (s.x rs1) imm := by
    rw [alu_toInt, hformula, wrapInt_x, wrapInt_imm himm]
  rw [hexec, ← hvalue]
  exact runI_imm _ _ s rd rs1 himm rest

/-! ## The R class -/

/-- Settles O12: `sub` is the R step, and its row selects the alternate operation, the difference. -/
theorem subWrapsModulo : Obligations.SubWrapsModulo :=
  rResult_of_formula (m := .sub) (fun _ _ => rfl) fun _ _ => rfl

/-- Settles O13: `sll` is the R step, and its row selects the left shift. -/
theorem sllShiftsByLowFiveBits : Obligations.SllShiftsByLowFiveBits :=
  rResult_of_formula (m := .sll) (fun _ _ => rfl) fun _ _ => rfl

/-- Settles O14: `slt` is the R step, and its row selects the signed comparison. -/
theorem sltComparesSigned : Obligations.SltComparesSigned :=
  rResult_of_formula (m := .slt) (fun _ _ => rfl) fun _ _ => rfl

/-- Settles O15: `sltu` is the R step, and its row selects the unsigned comparison. -/
theorem sltuComparesUnsigned : Obligations.SltuComparesUnsigned :=
  rResult_of_formula (m := .sltu) (fun _ _ => rfl) fun _ _ => rfl

/-- Settles O16: `xor` is the R step, and its row selects the bitwise exclusive or. -/
theorem xorIsBitwise : Obligations.XorIsBitwise :=
  rResult_of_formula (m := .xor) (fun _ _ => rfl) (aluFormula_xor _)

/-- Settles O18: `sra` is the R step, and its row selects the alternate right shift, the arithmetic one. -/
theorem sraShiftsSignBitsIn : Obligations.SraShiftsSignBitsIn :=
  rResult_of_formula (m := .sra) (fun _ _ => rfl) fun _ _ => rfl

/-- Settles O19: `or` is the R step, and its row selects the bitwise or. -/
theorem orIsBitwise : Obligations.OrIsBitwise :=
  rResult_of_formula (m := .or) (fun _ _ => rfl) (aluFormula_or _)

/-- Settles O20: `and` is the R step, and its row selects the bitwise and. -/
theorem andIsBitwise : Obligations.AndIsBitwise :=
  rResult_of_formula (m := .and) (fun _ _ => rfl) (aluFormula_and _)

/-! ## The I class -/

/-- Settles O22: `slti` is the I step, and its row selects the signed comparison. -/
theorem sltiComparesSigned : Obligations.SltiComparesSigned :=
  iResult_of_formula (m := .slti) (fun _ _ => rfl) fun _ _ => rfl

/-- Settles O23: `sltiu` is the I step, and its row selects the unsigned comparison. -/
theorem sltiuComparesUnsigned : Obligations.SltiuComparesUnsigned :=
  iResult_of_formula (m := .sltiu) (fun _ _ => rfl) fun _ _ => rfl

/-- Settles O24: `xori` is the I step, and its row selects the bitwise exclusive or. -/
theorem xoriIsBitwise : Obligations.XoriIsBitwise :=
  iResult_of_formula (m := .xori) (fun _ _ => rfl) (aluFormula_xor _)

/-- Settles O25: `ori` is the I step, and its row selects the bitwise or. -/
theorem oriIsBitwise : Obligations.OriIsBitwise :=
  iResult_of_formula (m := .ori) (fun _ _ => rfl) (aluFormula_or _)

/-- Settles O26: `andi` is the I step, and its row selects the bitwise and. -/
theorem andiIsBitwise : Obligations.AndiIsBitwise :=
  iResult_of_formula (m := .andi) (fun _ _ => rfl) (aluFormula_and _)

/-- Settles O27: `slli` is the I step, and its row selects the left shift. -/
theorem slliShiftsByLowFiveBits : Obligations.SlliShiftsByLowFiveBits :=
  iResult_of_formula (m := .slli) (fun _ _ => rfl) fun _ _ => rfl

/-- Settles O29: `srai` is the I step, and its row selects the alternate right shift, the arithmetic one. -/
theorem sraiShiftsSignBitsIn : Obligations.SraiShiftsSignBitsIn :=
  iResult_of_formula (m := .srai) (fun _ _ => rfl) fun _ _ => rfl

end Sys2Proof.Machine
end

section
/-! Loads, stores and branches on two registers and an offset (45_load_store.md, 46_branch.md), and the StepRecord each
class leaves (42_control_and_step.md R171, R176). -/

namespace Sys2Proof.Machine

/-! ## Mnemonics by opcode -/

section ByOpcode

variable {m : Mnemonic} (ops : List Operand) (s : State)

theorem exec_instr_regReg (hm : m.row.opcode = 0x33) :
    exec (m.instr ops) s = runR m.row.funct3 m.row.funct7 ops s := by
  have hcls : (m.instr ops).cls = .regReg := by rw [Mnemonic.instr_cls, hm]; rfl
  rw [exec_of_regReg s hcls, Mnemonic.instr_mnemonic, Mnemonic.instr_operands]

theorem exec_instr_regImm (hm : m.row.opcode = 0x13) :
    exec (m.instr ops) s = runI m.row.funct3 m.row.funct7 ops s := by
  have hcls : (m.instr ops).cls = .regImm := by rw [Mnemonic.instr_cls, hm]; rfl
  rw [exec_of_regImm s hcls, Mnemonic.instr_mnemonic, Mnemonic.instr_operands]

theorem exec_instr_branch (hm : m.row.opcode = 0x63) : exec (m.instr ops) s = runBranch m.row.funct3 ops s := by
  have hcls : (m.instr ops).cls = .branch := by rw [Mnemonic.instr_cls, hm]; rfl
  rw [exec_of_branch s hcls, Mnemonic.instr_mnemonic, Mnemonic.instr_operands]

end ByOpcode

/-! ## Loads and stores -/

/-- Settles O30: the cell of the statement is `cellIndex` of the address, written out. -/
theorem lwLoadsTheSelectedWord : Obligations.LwLoadsTheSelectedWord :=
  fun s rd rs1 _ hoff => exec_lw_offsetOps s rd rs1 hoff

/-- Settles O31: `sw` is the store step, and in a canonical memory a write changes one cell. -/
theorem swStoresTheSelectedWord : Obligations.SwStoresTheSelectedWord :=
  fun _ rs2 rs1 _ hmem hoff => exec_sw_offsetOps hmem rs2 rs1 hoff

/-! ## Branches -/

/-- A branch's commit changes `pc`, `log` and `last` only (46_branch.md R250). -/
theorem State.commitBranch_effect (s : State) (rs1 rs2 : Reg) (next : Nat) :
    KeepsRegs s (s.commitBranch rs1 rs2 next) ∧ KeepsMem s (s.commitBranch rs1 rs2 next) ∧
    Advances s (s.commitBranch rs1 rs2 next) next :=
  ⟨fun _ => rfl, fun _ => rfl, rfl, ⟨s.entry, rfl, rfl⟩, rfl, rfl⟩

/-- The comparator on two registers against the condition on their values. -/
theorem branchCondition_regs (funct3 : BitVec 3) (s : State) (rs1 rs2 : Reg) :
    branchCondition funct3 (s.reg rs1) (s.reg rs2) = true ↔ conditionFormula funct3 (s.x rs1) (s.x rs2) :=
  branchCondition_iff funct3 (s.reg rs1) (s.reg rs2)

section OffsetOps

variable (funct3 : BitVec 3) (s : State) (rs1 rs2 : Reg) {third : Option (Int × List Operand)}
  (hoff : InImmRange (offsetOr 1 third))
include hoff

theorem runBranch_offsetOps_taken (hc : conditionFormula funct3 (s.x rs1) (s.x rs2))
    (ht : 0 ≤ (s.pc : Int) + offsetOr 1 third) :
    runBranch funct3 (offsetOps rs1 rs2 third) s =
      .next (s.commitBranch rs1 rs2 ((s.pc : Int) + offsetOr 1 third).toNat) :=
  runBranch_taken funct3 s (branchOperands_offsetOps rs1 rs2 third hoff)
    ((branchCondition_regs funct3 s rs1 rs2).mpr hc) ht

theorem runBranch_offsetOps_notTaken (hc : ¬ conditionFormula funct3 (s.x rs1) (s.x rs2)) :
    runBranch funct3 (offsetOps rs1 rs2 third) s = .next (s.commitBranch rs1 rs2 (s.pc + 1)) :=
  runBranch_notTaken funct3 s (branchOperands_offsetOps rs1 rs2 third hoff)
    (Bool.eq_false_iff.mpr fun h => hc ((branchCondition_regs funct3 s rs1 rs2).mp h))

theorem runBranch_offsetOps_negative (hc : conditionFormula funct3 (s.x rs1) (s.x rs2))
    (ht : (s.pc : Int) + offsetOr 1 third < 0) :
    runBranch funct3 (offsetOps rs1 rs2 third) s =
      .fault (.branchTargetNegative s.pc s.currentText (s.pc + offsetOr 1 third)) :=
  runBranch_negative funct3 s (branchOperands_offsetOps rs1 rs2 third hoff)
    ((branchCondition_regs funct3 s rs1 rs2).mpr hc) ht

end OffsetOps

/-- Every branch goes by the condition its row's funct3 selects. -/
theorem branchResult_of_opcode {m : Mnemonic} (hm : m.row.opcode = 0x63) :
    BranchResult m m.row.funct3 (conditionFormula m.row.funct3) := by
  refine ⟨rfl, fun s rs1 rs2 third hoff => ?_⟩
  rw [exec_instr_branch _ _ hm]
  constructor
  · intro hc ht
    have heffect := s.commitBranch_effect rs1 rs2 ((s.pc : Int) + offsetOr 1 third).toNat
    rw [Int.toNat_of_nonneg ht] at heffect
    exact ⟨_, runBranch_offsetOps_taken _ s rs1 rs2 hoff hc ht, heffect⟩
  · intro hc
    exact ⟨_, runBranch_offsetOps_notTaken _ s rs1 rs2 hoff hc, s.commitBranch_effect rs1 rs2 (s.pc + 1)⟩

/-- Settles O32: the row of `beq` selects equality. -/
theorem beqBranchesOnEqual : Obligations.BeqBranchesOnEqual :=
  branchResult_of_opcode (m := .beq) rfl

/-- Settles O33: the row of `bne` selects inequality. -/
theorem bneBranchesOnNotEqual : Obligations.BneBranchesOnNotEqual :=
  branchResult_of_opcode (m := .bne) rfl

/-- Settles O34: the row of `blt` selects the signed comparison. -/
theorem bltBranchesOnSignedLess : Obligations.BltBranchesOnSignedLess :=
  branchResult_of_opcode (m := .blt) rfl

/-- Settles O35: the row of `bge` selects the opposite signed comparison. -/
theorem bgeBranchesOnSignedGreaterOrEqual : Obligations.BgeBranchesOnSignedGreaterOrEqual :=
  branchResult_of_opcode (m := .bge) rfl

/-- Settles O36: the row of `bltu` selects the unsigned comparison. -/
theorem bltuBranchesOnUnsignedLess : Obligations.BltuBranchesOnUnsignedLess :=
  branchResult_of_opcode (m := .bltu) rfl

/-- Settles O37: the row of `bgeu` selects the opposite unsigned comparison. -/
theorem bgeuBranchesOnUnsignedGreaterOrEqual : Obligations.BgeuBranchesOnUnsignedGreaterOrEqual :=
  branchResult_of_opcode (m := .bgeu) rfl

/-! ## StepRecords -/

/-- The log entry of a step that wrote a register is the one of the state before. -/
theorem State.commit_setReg_log (s : State) (rd : Reg) (v : Word) (next : Nat) (c : Control) (a : Option Word)
    (b aluResult : Option Int) (memDatum : Option Word) :
    ((s.setReg rd v).commit next c a b aluResult memDatum).log = s.log ++ [s.entry] := by
  rw [State.commit_log, State.setReg_log, State.setReg_entry]

theorem State.commit_setReg_last (s : State) (rd : Reg) (v : Word) (next : Nat) (c : Control) (a : Option Word)
    (b aluResult : Option Int) (memDatum : Option Word) :
    ((s.setReg rd v).commit next c a b aluResult memDatum).last = some {
      control := c, a := a, b := b, aluResult := aluResult, memDatum := memDatum, trace := s.entry } := by
  rw [State.commit_last, State.setReg_entry]

/-- Settles O38: every mnemonic of opcode 0x33 is the R step with its own row's fields. -/
theorem registerClassRecordsAndUsesTableFields : Obligations.RegisterClassRecordsAndUsesTableFields := by
  intro m s rd rs1 rs2 rest hm
  rw [exec_instr_regReg _ _ hm, runR_ok _ _ s (rOperands_regs rd rs1 rs2 rest)]
  exact ⟨_, rfl, (State.commit_setReg_effect ..).1, State.commit_setReg_log .., State.commit_setReg_last ..⟩

/-- Settles O39: every mnemonic of opcode 0x13 is the I step with its own row's fields. -/
theorem immediateClassRecordsAndUsesTableFields : Obligations.ImmediateClassRecordsAndUsesTableFields := by
  intro m s rd rs1 imm rest hm himm
  rw [exec_instr_regImm _ _ hm, runI_ok _ _ s (iOperands_regs rd rs1 himm rest)]
  exact ⟨_, rfl, (State.commit_setReg_effect ..).1, State.commit_setReg_log .., State.commit_setReg_last ..⟩

/-- Settles O40: the address recorded is the one before its cell is selected. -/
theorem loadStoreRecords : Obligations.LoadStoreRecords := by
  intro s p rs1 third hoff
  have hops := memOperands_offsetOps p rs1 third hoff
  rw [exec_lw, exec_sw, runLoad_ok s hops, runStore_ok s hops]
  exact ⟨⟨_, rfl, State.commit_setReg_last ..⟩, ⟨_, rfl, State.commit_last ..⟩⟩

/-- Settles O41: taken or not, a branch commits the same StepRecord. -/
theorem branchRecordsAndUsesTableFunct3 : Obligations.BranchRecordsAndUsesTableFunct3 := by
  intro m s rs1 rs2 third hm hoff htarget
  rw [exec_instr_branch _ _ hm]
  by_cases hc : conditionFormula m.row.funct3 (s.x rs1) (s.x rs2)
  · exact ⟨_, runBranch_offsetOps_taken _ s rs1 rs2 hoff hc (htarget hc), fun _ => Int.toNat_of_nonneg (htarget hc),
      fun hnot => absurd hc hnot, State.commitBranch_last ..⟩
  · exact ⟨_, runBranch_offsetOps_notTaken _ s rs1 rs2 hoff hc, fun h => absurd h hc, fun _ => rfl,
      State.commitBranch_last ..⟩

end Sys2Proof.Machine
end

section
/-! Faults (60_exceptions.md sections 2 to 5) and the frame of a completed step (42_control_and_step.md R183): what
`exec` answers for every instruction and state, said once, and what each effect leaves unchanged. -/

namespace Sys2Proof.Machine

/-! ## The operand check -/

/-- A check whose three parts check the class's positions answers, where it fails, the first that does not fit. -/
theorem firstUnfit_of_checked_error {α : Type} {c : Cls} {ops : List Operand} {p q : Option Reg} {r : Option α}
    {k : Nat} (h : checked p q r = .error k) (h0 : p.isSome = positionFits c ops 0)
    (h1 : q.isSome = positionFits c ops 1) (h2 : r.isSome = positionFits c ops 2) : k < 3 ∧ FirstUnfit c ops k := by
  rcases checked_error h with ⟨rfl, hp⟩ | ⟨rfl, hp, hq⟩ | ⟨rfl, hp, hq, hr⟩
  · refine ⟨by decide, ?_, fun j hj => by omega⟩
    rw [← h0, hp, Option.isSome_none]
  · refine ⟨by decide, ?_, fun j hj => ?_⟩
    · rw [← h1, hq, Option.isSome_none]
    · interval_cases j
      rw [← h0, hp]
  · refine ⟨by decide, ?_, fun j hj => ?_⟩
    · rw [← h2, hr, Option.isSome_none]
    · interval_cases j
      · rw [← h0, hp]
      · rw [← h1, hq]

section OperandCheck

variable {ops : List Operand} {k : Nat}

theorem rOperands_firstUnfit (h : rOperands ops = .error k) : k < 3 ∧ FirstUnfit .regReg ops k :=
  firstUnfit_of_checked_error h (regAt_isSome ops 0) (regAt_isSome ops 1) (regAt_isSome ops 2)

theorem iOperands_firstUnfit (h : iOperands ops = .error k) : k < 3 ∧ FirstUnfit .regImm ops k :=
  firstUnfit_of_checked_error h (regAt_isSome ops 0) (regAt_isSome ops 1) (immAt_isSome ops 2)

theorem memOperands_firstUnfit {c : Cls} (hc : c = .load ∨ c = .store) (h : memOperands ops = .error k) :
    k < 3 ∧ FirstUnfit c ops k := by
  rcases hc with rfl | rfl <;>
    exact firstUnfit_of_checked_error h (regAt_isSome ops 0) (regAt_isSome ops 1) (immAtOr_isSome ops 2 _)

theorem branchOperands_firstUnfit (h : branchOperands ops = .error k) : k < 3 ∧ FirstUnfit .branch ops k :=
  firstUnfit_of_checked_error h (regAt_isSome ops 0) (regAt_isSome ops 1) (immAtOr_isSome ops 2 _)

end OperandCheck

/-! ## Everything `exec` can answer -/

/-- The outcome of an instruction: its operands do not fit and it reports the first position that does not; or they fit
and it completes, or is a taken branch to a negative target (60_exceptions.md R301, R302, R303). -/
inductive ExecOutcome (i : Instr) (s : State) : Host.Outcome State Fault Refusal → Prop where
  | unfit (k : Nat) (hfit : i.wellFormed = false) (hk : k < 3 ∧ FirstUnfit i.cls i.operands k) :
      ExecOutcome i s (.fault (.invalidOperand s.pc s.currentText k))
  | completes (t : State) (hfit : i.wellFormed = true) : ExecOutcome i s (.next t)
  | negative (rs1 rs2 : Reg) (off : Int) (hfit : i.wellFormed = true) (hc : i.cls = .branch)
      (ho : branchOperands i.operands = .ok (rs1, rs2, off))
      (hcond : conditionFormula i.mnemonic.row.funct3 (s.x rs1) (s.x rs2)) (htarget : (s.pc : Int) + off < 0) :
      ExecOutcome i s (.fault (.branchTargetNegative s.pc s.currentText (s.pc + off)))

/-- A branch whose operands fit is not taken, taken, or taken to a negative target. -/
theorem execOutcome_branch {i : Instr} (s : State) {rs1 rs2 : Reg} {off : Int} (hc : i.cls = .branch)
    (hfit : i.wellFormed = true) (ho : branchOperands i.operands = .ok (rs1, rs2, off)) :
    ExecOutcome i s (runBranch i.mnemonic.row.funct3 i.operands s) := by
  cases hcond : branchCondition i.mnemonic.row.funct3 (s.reg rs1) (s.reg rs2) with
  | false =>
    rw [runBranch_notTaken _ s ho hcond]
    exact .completes _ hfit
  | true =>
    rcases lt_or_ge ((s.pc : Int) + off) 0 with ht | ht
    · rw [runBranch_negative _ s ho hcond ht]
      exact .negative rs1 rs2 off hfit hc ho ((branchCondition_regs _ s rs1 rs2).mp hcond) ht
    · rw [runBranch_taken _ s ho hcond ht]
      exact .completes _ hfit

theorem exec_outcome (i : Instr) (s : State) : ExecOutcome i s (exec i s) := by
  obtain ⟨hr, hi, hl, hs, hb⟩ := operands_isOk i.operands
  rcases exec_eq_run i s with ⟨hc, h⟩ | ⟨hc, h⟩ | ⟨hc, h⟩ | ⟨hc, h⟩ | ⟨hc, h⟩ <;> rw [h] <;>
    have hwf := Instr.wellFormed_of_cls hc
  · rcases ho : rOperands i.operands with k | ⟨rd, rs1, rs2⟩ <;> rw [ho] at hr
    · rw [runR_error _ _ s ho]
      exact .unfit k (hwf.trans hr.symm) (hc ▸ rOperands_firstUnfit ho)
    · rw [runR_ok _ _ s ho]
      exact .completes _ (hwf.trans hr.symm)
  · rcases ho : iOperands i.operands with k | ⟨rd, rs1, imm⟩ <;> rw [ho] at hi
    · rw [runI_error _ _ s ho]
      exact .unfit k (hwf.trans hi.symm) (hc ▸ iOperands_firstUnfit ho)
    · rw [runI_ok _ _ s ho]
      exact .completes _ (hwf.trans hi.symm)
  · rcases ho : memOperands i.operands with k | ⟨rd, rs1, off⟩ <;> rw [ho] at hl
    · rw [runLoad_error s ho]
      exact .unfit k (hwf.trans hl.symm) (hc ▸ memOperands_firstUnfit (.inl rfl) ho)
    · rw [runLoad_ok s ho]
      exact .completes _ (hwf.trans hl.symm)
  · rcases ho : memOperands i.operands with k | ⟨rs2, rs1, off⟩ <;> rw [ho] at hs
    · rw [runStore_error s ho]
      exact .unfit k (hwf.trans hs.symm) (hc ▸ memOperands_firstUnfit (.inr rfl) ho)
    · rw [runStore_ok s ho]
      exact .completes _ (hwf.trans hs.symm)
  · rcases ho : branchOperands i.operands with k | ⟨rs1, rs2, off⟩ <;> rw [ho] at hb
    · rw [runBranch_error _ s ho]
      exact .unfit k (hwf.trans hb.symm) (hc ▸ branchOperands_firstUnfit ho)
    · exact execOutcome_branch s hc (hwf.trans hb.symm) ho

/-! ## The faults -/

/-- Settles O42: the operand check comes first, and nothing after it raises this fault. -/
theorem invalidOperandIsRaisedExactly : Obligations.InvalidOperandIsRaisedExactly := by
  intro i s
  have h := exec_outcome i s
  generalize exec i s = o at h
  cases h with
  | unfit k hfit hk => exact ⟨fun _ => ⟨k, rfl, hk⟩, fun hfit' => by simp [hfit] at hfit'⟩
  | completes t hfit => exact ⟨fun hfit' => by simp [hfit] at hfit', nofun⟩
  | negative rs1 rs2 off hfit => exact ⟨fun hfit' => by simp [hfit] at hfit', nofun⟩

/-- Settles O43: a branch checks its operands, then its condition, then its target. -/
theorem branchTargetNegativeIsRaisedExactly : Obligations.BranchTargetNegativeIsRaisedExactly := by
  refine ⟨fun m s rs1 rs2 third hm hoff hc ht => ?_, fun i s pc text target h => ?_⟩
  · rw [exec_instr_branch _ _ hm]
    exact runBranch_offsetOps_negative _ s rs1 rs2 hoff hc ht
  · have hout := exec_outcome i s
    rw [h] at hout
    cases hout with
    | negative rs1 rs2 off hfit hc ho hcond htarget =>
      exact ⟨hc, hfit, htarget, rfl, rfl, rs1, rs2, off, ho, hcond, rfl⟩

/-- Settles O45: a step is nothing, the fall-through or an instruction, and an instruction has one of three outcomes. -/
theorem onlyTwoFaultsAndNoRefusal : Obligations.OnlyTwoFaultsAndNoRefusal := by
  intro s
  cases hf : s.fetch with
  | none => exact .inl ⟨s, step_of_fetch_none hf⟩
  | some text =>
    cases hi : (decode text).instr with
    | none => exact .inl ⟨_, step_of_instr_none hf hi⟩
    | some i =>
      have hout := exec_outcome i s
      rw [← step_of_instr hf hi] at hout
      generalize hstep : step s = o at hout
      cases hout with
      | unfit k hfit hk =>
        rw [State.currentText_of_fetch hf]
        exact .inr (.inl ⟨text, k, hf, hk.1, rfl⟩)
      | completes t => exact .inl ⟨t, rfl⟩
      | negative rs1 rs2 off hfit hc ho hcond htarget =>
        rw [State.currentText_of_fetch hf]
        exact .inr (.inr ⟨text, _, hf, htarget, rfl⟩)

theorem halted_eq_false_of_step_fault {s : State} {f : Fault} (hf : step s = .fault f) : s.halted = false := by
  refine Bool.eq_false_iff.mpr fun hh => ?_
  rw [step_of_fetch_none (s.halted_iff_fetch.mp hh)] at hf
  cases hf

/-- Settles O44: the state after a fault differs in `running` only, which a step does not read. -/
theorem faultedMachineIsStuck : Obligations.FaultedMachineIsStuck := by
  intro s f hf
  have hh := halted_eq_false_of_step_fault hf
  have hf' : step (s.withRunning false) = .fault f := by rw [step_withRunning, hf, outcomeWithRunning_fault]
  have hcmd : stepCommand s = (s.withRunning false, .fault f) := stepCommand_fault hh hf
  refine ⟨hh, hcmd, ?_⟩
  rw [hcmd]
  exact stepCommand_fault hh hf'

/-! ## The frame of a completed step -/

theorem Effect.frame {s t : State} {c : Cls} {ops : List Operand} (h : Effect s c ops t) :
    t.program = s.program ∧ t.running = s.running ∧ t.log = s.log ++ [s.entry] := by
  cases h with
  | register => exact ⟨State.setReg_program .., State.setReg_running .., State.commit_setReg_log ..⟩
  | memory => exact ⟨rfl, rfl, rfl⟩
  | branch => exact ⟨rfl, rfl, rfl⟩
  | nothing => exact ⟨rfl, rfl, rfl⟩

/-- Only a branch sets `pc` to anything but the next index (46_branch.md R259). -/
theorem Effect.pc_eq_succ {s t : State} {c : Cls} {ops : List Operand} (h : Effect s c ops t) (hc : c ≠ .branch) :
    t.pc = s.pc + 1 := by
  cases h with
  | register => rfl
  | memory => rfl
  | branch _ _ _ _ hbranch => exact absurd hbranch hc
  | nothing => rfl

/-- A register instruction writes the register of operand 0 and no cell. -/
theorem Effect.writesReg {s t : State} {c : Cls} {ops : List Operand} (h : Effect s c ops t)
    (hc : c = .regReg ∨ c = .regImm ∨ c = .load) :
    KeepsMem s t ∧ ∃ rd v, regAt ops 0 = some rd ∧ WritesReg s t rd v := by
  cases h with
  | register rd v a b r d _ ho =>
    obtain ⟨hwrites, hkeeps, -⟩ := s.commit_setReg_effect rd v (s.pc + 1) (controlSignals c) a b r d
    exact ⟨hkeeps, rd, _, ho, hwrites⟩
  | memory _ _ _ _ _ _ _ hc' => simp [hc'] at hc
  | branch _ _ _ _ hc' => simp [hc'] at hc
  | nothing hc' => simp [hc'] at hc

/-- A store writes the cell its operands address and no register. -/
theorem Effect.writesCell {s t : State} {ops : List Operand} (h : Effect s .store ops t)
    (hmem : Memory.wf s.mem = true) :
    KeepsRegs s t ∧ ∃ rs2 rs1 off, memOperands ops = .ok (rs2, rs1, off) ∧
      WritesCell s t (cellIndex (s.x rs1 + off)) (s.reg rs2) := by
  cases h with
  | register _ _ _ _ _ _ hc' => simp at hc'
  | memory rs2 rs1 off a b r d _ ho =>
    obtain ⟨hwrites, hkeeps, -⟩ := State.commit_store_effect hmem (s.x rs1 + off) (s.reg rs2) (s.pc + 1)
      (controlSignals .store) a b r d
    exact ⟨hkeeps, rs2, rs1, off, ho, hwrites⟩
  | branch _ _ _ _ hc' => cases hc'
  | nothing hc' => cases hc'

theorem Effect.keeps {s t : State} {c : Cls} {ops : List Operand} (h : Effect s c ops t)
    (hc : c = .branch ∨ c = .noClass) : KeepsRegs s t ∧ KeepsMem s t := by
  cases h with
  | register _ _ _ _ _ _ hc' => rcases hc with rfl | rfl <;> simp at hc'
  | memory _ _ _ _ _ _ _ hc' => simp [hc'] at hc
  | branch => exact ⟨fun _ => rfl, fun _ => rfl⟩
  | nothing => exact ⟨fun _ => rfl, fun _ => rfl⟩

/-- Settles O50: the effect of an instruction is the write its class makes, before a commit that makes none. -/
theorem stepChangesOneRegisterOrOneCell : Obligations.StepChangesOneRegisterOrOneCell := by
  intro s t hmem hh h
  rcases step_next h with ⟨hf, -⟩ | ⟨text, i, hf, hi, -, he⟩ | ⟨text, hf, hi, rfl⟩
  · simp [s.halted_iff_fetch.mpr hf] at hh
  · obtain ⟨hprog, hrun, hlog⟩ := he.frame
    refine ⟨⟨text, hf, ?_⟩, hprog, hrun, s.entry, hlog, rfl⟩
    simp only [hi]
    generalize i.cls = c at he ⊢
    cases c with
    | regReg => exact he.writesReg (.inl rfl)
    | regImm => exact he.writesReg (.inr (.inl rfl))
    | load => exact he.writesReg (.inr (.inr rfl))
    | store => exact he.writesCell hmem
    | branch => exact he.keeps (.inl rfl)
    | noClass => exact he.keeps (.inr rfl)
  · obtain ⟨hregs, hcells, -⟩ := s.fallThrough_effect
    refine ⟨⟨text, hf, ?_⟩, rfl, rfl, s.entry, rfl, rfl⟩
    simp only [hi]
    exact ⟨hregs, hcells⟩

/-- Settles O51: of all effects only a branch's sets `pc` to another value than the next index. -/
theorem onlyBranchesTransferControl : Obligations.OnlyBranchesTransferControl := by
  refine ⟨fun s t hh h hpc => ?_, fun i s t h hc => (exec_next h).pc_eq_succ hc⟩
  rcases step_next h with ⟨hf, -⟩ | ⟨text, i, hf, hi, -, he⟩ | ⟨text, hf, hi, rfl⟩
  · simp [s.halted_iff_fetch.mpr hf] at hh
  · exact ⟨text, i, hf, hi, not_imp_comm.mp he.pc_eq_succ hpc⟩
  · exact absurd rfl hpc

end Sys2Proof.Machine
end

section
/-! Cell indices as address bits (20_memory.md R50 to R54), the edits of the program (49_run_control.md R288 to R291)
and the commands of a run (49_run_control.md R283 to R286). -/

namespace Sys2Proof.Machine

/-! ## Cell indices -/

/-- The index of an address depends on the address modulo 1024 only. -/
theorem cellIndex_eq_emod (addr : Int) : cellIndex addr = (addr % 1024 / 4).toNat := by
  unfold cellIndex
  omega

theorem cellIndex_congr {a b : Int} (h : a % 1024 = b % 1024) : cellIndex a = cellIndex b := by
  rw [cellIndex_eq_emod, cellIndex_eq_emod, h]

theorem cellIndex_eq_extract (addr : Int) : cellIndex addr = ((wrap32 addr).extractLsb' 2 8).toNat := by
  rw [BitVec.extractLsb'_toNat, toNat_wrap32, Nat.shiftRight_eq_div_pow, u32, cellIndex]
  omega

/-- Settles O54: 1024 divides 2^32, and the two low bits of an address vanish in its quotient by 4. -/
theorem cellIndexIsAddressBits : Obligations.CellIndexIsAddressBits := by
  intro addr
  refine ⟨cellIndex_eq_extract addr, cellIndex_lt addr, fun n => ?_, ?_, ?_⟩
  · exact cellIndex_congr (Int.add_mul_emod_self_left addr 1024 n)
  · rw [cellIndex_eq_extract, cellIndex_eq_extract, ← toInt_wrap32, wrap32_toInt]
  · unfold cellIndex
    omega

/-! ## Editing the program -/

theorem insertPosition_of_le {length p : Nat} (hp : p ≤ length) : insertPosition length (some (p : Int)) = some p := by
  simp [insertPosition, hp]

theorem insertPosition_outside {length : Nat} {p : Int} (hp : p < 0 ∨ (length : Int) < p) :
    insertPosition length (some p) = none := by
  simp only [insertPosition]
  rw [if_neg (by omega)]

/-- An insertion at a position inside a program that is not full (49_run_control.md R288). -/
theorem insertCommand_eq {s : State} {position : Option Int} {p : Nat} (text : Text)
    (hp : insertPosition s.program.length position = some p) (hlen : s.program.length < Config.progMax) :
    insertCommand text position s = ({ s with program := s.program.take p ++ text :: s.program.drop p }, .silent) := by
  simp [insertCommand, hp, hlen]

theorem insertCommand_outside {s : State} {position : Option Int} (text : Text)
    (hp : insertPosition s.program.length position = none) : insertCommand text position s = (s, .silent) := by
  simp [insertCommand, hp]

section InsertAt

variable {α : Type} {l : List α} {p : Nat} (hp : p ≤ l.length) (x : α)
include hp

theorem getElem?_insertAt_below {j : Nat} (hj : j < p) : (l.take p ++ x :: l.drop p)[j]? = l[j]? := by
  rw [List.getElem?_append_left (by simp; omega), List.getElem?_take_of_lt hj]

theorem getElem?_insertAt_same : (l.take p ++ x :: l.drop p)[p]? = some x := by
  rw [List.getElem?_append_right (by simp)]
  simp [hp]

theorem getElem?_insertAt_above {j : Nat} (hj : p ≤ j) : (l.take p ++ x :: l.drop p)[j + 1]? = l[j]? := by
  rw [List.getElem?_append_right (by simp; omega), List.length_take_of_le hp, Nat.sub_add_comm hj,
    List.getElem?_cons_succ, List.getElem?_drop, Nat.add_sub_cancel' hj]

end InsertAt

/-- Settles O57: the new program is the old one cut at the position, with the text between. -/
theorem insertMovesLaterInstructionsUp : Obligations.InsertMovesLaterInstructionsUp := by
  refine fun s text => ⟨fun p hp hlen position hpos => ?_, fun p hp => ?_⟩
  · have hat : insertPosition s.program.length position = some p := by
      rcases hpos with rfl | ⟨rfl, rfl⟩
      · exact insertPosition_of_le hp
      · rfl
    exact ⟨_, insertCommand_eq text hat hlen, rfl, length_insertAt .., getElem?_insertAt_same hp text,
      fun j => getElem?_insertAt_below hp text, fun j => getElem?_insertAt_above hp text⟩
  · rw [applyCommand, insertCommand_outside text (insertPosition_outside hp)]

/-- A removal inside the program (49_run_control.md R289, R291). -/
theorem removeCommand_eq {s : State} {k : Nat} (hk : k < s.program.length) :
    removeCommand k s = ({ s with
      program := s.program.eraseIdx k
      pc := if (s.program.eraseIdx k).length < s.pc then 0 else s.pc }, .silent) := by
  simp [removeCommand, hk]

theorem removeCommand_outside {s : State} {k : Int} (hk : k < 0 ∨ (s.program.length : Int) ≤ k) :
    removeCommand k s = (s, .silent) := by
  rw [removeCommand, if_neg (by omega)]

/-- Settles O58: the new program is the old one without the entry, and `pc` is compared with its length. -/
theorem removeMovesLaterInstructionsDown : Obligations.RemoveMovesLaterInstructionsDown := by
  refine fun s => ⟨fun k hk => ?_, fun k hk => ?_⟩
  · exact ⟨_, removeCommand_eq hk, rfl, List.length_eraseIdx_add_one hk, fun j => List.getElem?_eraseIdx_of_lt,
      fun j => List.getElem?_eraseIdx_of_ge, fun hpc => if_pos hpc, fun hpc => if_neg (not_lt.mpr hpc)⟩
  · rw [applyCommand, removeCommand_outside hk]

/-! ## A run -/

theorem State.endRunIfHalted_eq (s : State) :
    s.endRunIfHalted = if s.halted then s.withRunning false else s := rfl

theorem tickCommand_running {s : State} (hs : s.running = true) :
    tickCommand s = ((stepCommand s).1.endRunIfHalted, (stepCommand s).2) := by
  simp [tickCommand, hs]

theorem step_running {s t : State} (h : step s = .next t) : t.running = s.running := by
  rcases step_next h with ⟨-, rfl⟩ | ⟨_, _, -, -, -, he⟩ | ⟨_, -, -, rfl⟩
  · rfl
  · exact he.frame.2.1
  · rfl

/-- Settles O59: a tick is the step command, which keeps `running` where it completes, and then the end of the run where
the machine is halted. -/
theorem runStopAndTickControlTheRun : Obligations.RunStopAndTickControlTheRun := by
  intro s
  refine ⟨rfl, rfl, fun hs => ?_, fun hs hh => ?_, fun hs f hf => ?_, fun hs hh t ht => ?_, fun hh t ht => ?_⟩
  · simp [applyCommand, tickCommand, hs]
  · rw [applyCommand, tickCommand_running hs, stepCommand_halted hh, State.endRunIfHalted_eq, if_pos hh]
    rfl
  · have hh := halted_eq_false_of_step_fault hf
    have hend : (s.withRunning false).endRunIfHalted = s.withRunning false := by simp [State.endRunIfHalted_eq, hh]
    rw [applyCommand, tickCommand_running hs, stepCommand_fault hh hf]
    exact congrArg (·, _) hend
  · rw [applyCommand, tickCommand_running hs, stepCommand_next hh ht, State.endRunIfHalted_eq]
    have hrun : t.running = true := (step_running ht).trans hs
    cases ht' : t.halted with
    | true => rfl
    | false =>
      change t = t.withRunning true
      rw [← hrun]
      rfl
  · rw [applyCommand, stepCommand_next hh ht]
    exact ⟨rfl, step_running ht⟩

end Sys2Proof.Machine
end
